-- ==== Sys2Proof/Word.lean ====
section
/-! DEFINITION. The words of the KX220: bytes, 16-byte blocks, 32-byte keys, and the small indices of its tables. -/

namespace Sys2Proof

/-- One byte of a frame or of a record; bit 0 is its least significant bit (00_scope.md, section 6). -/
abbrev Byte := BitVec 8

/-- A sequence of bytes in the order a link carries them. -/
abbrev Bytes := List Byte

/-- A 16-byte block read as a number: byte 0 is the least significant (00_scope.md, section 6; R9). -/
abbrev Block := BitVec 128

/-- A 32-byte key, its byte 0 in the low bits (R1, R39). -/
abbrev Key := BitVec 256

/-- The 13-byte nonce of a wrapped key record (R49). -/
abbrev Nonce := BitVec 104

/-- A generation, 0 to 65535 (R39). -/
abbrev Generation := BitVec 16

/-- A count of microseconds, or a point on that count (R157). -/
abbrev Time := BitVec 64

/-- A transfer tag, 0 to 63 (R62). -/
abbrev Tag := Fin 64

/-- A range index, 0 to 15 (R21). -/
abbrev RangeIx := Fin 16

/-- A key slot number, 0 to 15 (R39). -/
abbrev SlotIx := Fin 16

/-- A wrapping entry number, 0 to 3 (R44). -/
abbrev EntryIx := Fin 4

/-- A cipher lane number, 0 to 3 (R100). -/
abbrev LaneIx := Fin 4

/-- A format code that a context can hold, 0 to 3 (R3). -/
abbrev FormatCode := Fin 4

end Sys2Proof
end

