-- ==== Sys2Proof/Syntax.lean ====
section
/-! DEFINITION. The frames of the two links and the commands of the part: one constructor of `Instr` for each row of
spec/opcode_table.json. -/

namespace Sys2Proof

/-- The two ports (00_scope.md, section 2). -/
inductive PortId where
  | front
  | media
deriving DecidableEq, Repr

/-- The two outbound sector queues, each with a hold list (R107). -/
inductive SectorQueue where
  | moq
  | fsq
deriving DecidableEq, Repr

/-- The 16-byte frame header, field by field in the byte positions of Table 11-1.
`form` is byte 3 (format, read sector status, direction); `unused` is bytes 12 and 13. -/
structure Header where
  kind       : Byte
  tag        : Byte
  index      : Byte
  form       : Byte
  lba        : BitVec 40
  countLess1 : Byte
  length     : BitVec 16
  unused     : BitVec 16
  check      : BitVec 16
deriving DecidableEq, Repr

/-- A whole frame: a header, a payload and the 4-byte payload check (R87, section 11). -/
structure Frame where
  header  : Header
  payload : Bytes
  check   : BitVec 32
deriving DecidableEq, Repr

/-- The commands of the part. A directive's command has no operand: it executes the first unexecuted entry of the
Directive Queue, which holds the directive's parameters (R138; log entry 2). -/
inductive Instr where
  /-- POWER_ON (R156): release of the power-on reset input. -/
  | powerOn
  /-- POWER_ON_RESET_ASSERTED (R156): assertion of the power-on reset input. -/
  | powerOnResetAsserted
  /-- FRONT_LINK_DOWN (R152). -/
  | frontLinkDown
  /-- FRONT_LINK_UP (R153). -/
  | frontLinkUp
  /-- MEDIA_LINK_DOWN (R154). -/
  | mediaLinkDown
  /-- MEDIA_LINK_UP (R154). -/
  | mediaLinkUp
  /-- FRAME_ARRIVAL (R87): a whole frame arrives at a port. -/
  | frameArrival (port : PortId) (frame : Frame)
  /-- HOLD_ARRIVAL (R95): a HOLD whose header check passes arrives at a port. -/
  | holdArrival (port : PortId)
  /-- GO_ARRIVAL (R95): a GO whose header check passes arrives at a port. -/
  | goArrival (port : PortId)
  /-- LANE_JOB_START (R103): the Lane Dispatcher makes one grant. -/
  | laneJobStart
  /-- LANE_JOB_COMPLETION (R106): the sector transform of a lane ends. -/
  | laneJobCompletion (lane : LaneIx)
  /-- HAND_OFF (R110): a free place is handed to the first lane of a hold list. -/
  | handOff (queue : SectorQueue)
  /-- BYPASS_OFFER (R133): the waiting bypass sector is offered to the FSQ again. -/
  | bypassOffer
  /-- FRONT_FRAME_SENT (R96): the last byte of an RPQ or FSQ frame is sent. -/
  | frontFrameSent
  /-- MEDIA_FRAME_SENT (R97): the last byte of the MOQ head is sent. -/
  | mediaFrameSent
  /-- FLOW_FRAME_SENT (R93): the last byte of a HOLD or GO of the part is sent. -/
  | flowFrameSent (port : PortId)
  /-- IDLE_DEADLINE_EXPIRY (R76). -/
  | idleDeadlineExpiry (tag : Tag)
  /-- DRAIN_TIMER_EXPIRY (R57). -/
  | drainTimerExpiry
  /-- AUTO_LOCK_EXPIRY (R155). -/
  | autoLockExpiry
  /-- START_UP_TEST_COMPLETE (R47): the start-up health test ends, passed or not. -/
  | startUpTestComplete (passed : Bool)
  /-- RUNNING_TEST_FAILURE (R48). -/
  | runningTestFailure
  /-- FILL_END (R48): the last of the 77 random bytes is taken. `atOnce` says whether the record is made in this
  event or by a wrapping computation that ends at WRAPPED_RECORD_MADE (log entry 6). -/
  | fillEnd (dataKey tweakKey : Key) (nonce : Nonce) (atOnce : Bool)
  /-- WRAPPED_RECORD_MADE (R53): the wrapping computation ends. -/
  | wrappedRecordMade
  /-- RECORD_OPENING_END (R54): the checking and opening of an installed record ends. -/
  | recordOpeningEnd
  /-- DEFINE_RANGE (R27). -/
  | defineRange
  /-- DISABLE_RANGE (R32). -/
  | disableRange
  /-- SET_LOCKS (R33). -/
  | setLocks
  /-- SET_WRAPPING_KEY (R44). -/
  | setWrappingKey
  /-- CLEAR_WRAPPING_KEY (R45). -/
  | clearWrappingKey
  /-- GENERATE_KEY (R53). -/
  | generateKey
  /-- INSTALL_KEY (R54). -/
  | installKey
  /-- REKEY_SLOT (R55). -/
  | rekeySlot
  /-- DISCARD_KEY (R55). -/
  | discardKey
  /-- ABANDON_TRANSFER (R77). -/
  | abandonTransfer
  /-- SET_LIMITS (R142). -/
  | setLimits
  /-- QUERY_ENGINE (R144). -/
  | queryEngine
  /-- QUERY_RANGE (R144). -/
  | queryRange
  /-- QUERY_SLOT (R144). -/
  | querySlot
  /-- QUERY_CONTEXT (R144). -/
  | queryContext
  /-- QUERY_LIMITS (R144). -/
  | queryLimits
  /-- CLEAR_EVENTS (R146). -/
  | clearEvents
  /-- RESET_ENGINE (R148). -/
  | resetEngine
  /-- UNKNOWN_DIRECTIVE (R140). -/
  | unknownDirective
deriving DecidableEq, Repr

end Sys2Proof
end

