-- ==== Sys2Proof/Decode.lean ====
section
/-! DEFINITION. The command that a word of spec/opcode_table.json spells. The table gives no row any bits (every row's
"fields" is empty and no row has a "fixed"), so no word spells a command. The layouts of frames and directive payloads,
which do have bytes, are read in Machine/Frames.lean and Machine/Operands.lean. -/

namespace Sys2Proof

/-- No row of the table gives bits: no word spells a command. -/
def decodeTableWord (_nbits _w : Nat) : Option Instr := none

end Sys2Proof
end

