-- ==== Sys2Proof/Config.lean ====
section
/-! DEFINITION. What the part fixes and the manual leaves outside: the block transform. -/

namespace Sys2Proof

/-- The block transform: under every key a permutation of the 2^128 blocks, with its inverse (R1).
Its bytes are those of the part's fixed construction, which the manual does not give (00_scope.md, section 4), so
nothing in Lean can evaluate it. DESIGN CHOICE, safe: log entry 1. -/
opaque Config.blockTransform : Key → Equiv.Perm Block

/-- The capacity of the FIQ, MIQ, MOQ and FSQ (Table 5-1). -/
def Config.queueCapacity : Nat := 16

/-- The capacity of the Directive Queue (Table 5-1). -/
def Config.drqCapacity : Nat := 8

/-- The greatest LBA ceiling, 2^40 (R142). -/
def Config.maxCeiling : Nat := 2 ^ 40

end Sys2Proof
end

