-- ==== Sys2Proof/Machine/State.lean ====
section
/-! DEFINITION. The state of the part: every block of Table 1 of 00_scope.md with the state it holds, as plain data, and
its values right after power-on. -/

namespace Sys2Proof.Machine

/-- The state of a link (R150). -/
inductive Link where
  | down
  | up
deriving DecidableEq, Repr

/-- The two flow-control frames (R93, R95). -/
inductive Flow where
  | hold
  | go
deriving DecidableEq, Repr

/-- A frame in transmission: a flow frame, or the head of the named queue, which stays in the queue until its last
byte has been sent (R86, R96, R97). -/
inductive Sending where
  | flow (f : Flow)
  | rpq
  | fsq
  | moq
deriving DecidableEq, Repr

/-- One port (R93, R95, R150). -/
structure Port where
  /-- The state of the link. -/
  link        : Link
  /-- The own hold: `true` is HELD, `false` RELEASED (R93). -/
  held        : Bool
  /-- The peer hold (R95). -/
  peerHold    : Bool
  /-- The pending flow frame (R93). -/
  pendingFlow : Option Flow
  /-- What the partner was last told since the link came UP, a frame in transmission included (R99). -/
  told        : Option Flow
  /-- The frame in transmission (R96, R97). -/
  sending     : Option Sending
  /-- The model's own: the last frame whose last byte has been sent on this link (log entry 20). -/
  line        : Option Frame
deriving DecidableEq, Repr

/-- The front arbiter's alternation pointer (R96). -/
inductive FrontTurn where
  | rpq
  | fsq
deriving DecidableEq, Repr

/-- The Lane Dispatcher's pointer (R102). -/
inductive LaneTurn where
  | front
  | media
deriving DecidableEq, Repr

/-- A frame in an intake queue, with its damage mark (R89). -/
structure Queued where
  frame   : Frame
  damaged : Bool
deriving DecidableEq, Repr

/-- An entry of the Directive Queue (R91): executed entries wait for their RESPONSE to leave; the first entry not yet
executed is the one being executed while the Directive Unit is EXECUTING. -/
structure DrqEntry where
  frame    : Frame
  damaged  : Bool
  executed : Bool
deriving DecidableEq, Repr

/-- The direction of a transfer (R62). -/
inductive Direction where
  | write
  | read
deriving DecidableEq, Repr

/-- The head verdicts (R127). -/
inductive Verdict where
  | mismatch
  | void
  | stale
  | zero
  | decipher
deriving DecidableEq, Repr

/-- The status of a read sector (R132, Table 11-6). -/
inductive ReadStatus where
  | good
  | checkFail
  | stale
  | zero
  | void
  | mismatch
deriving DecidableEq, Repr

/-- The ending statuses of a transfer (Table 4-5, Table 11-6). -/
inductive Ending where
  | done
  | locked
  | noKey
  | keyChanging
  | outOfRange
  | badFormat
  | badLength
  | sequence
  | damaged
  | overrun
  | timeout
  | abandoned
  | erased
  | tagReuse
  | mediaLost
deriving DecidableEq, Repr

/-- The result codes of a RESPONSE (Table 9-2, Table 11-7). -/
inductive Result where
  | ok
  | badParam
  | damaged
  | rangeBusy
  | overlap
  | outOfRange
  | rangeConflict
  | slotState
  | sameGeneration
  | noWrap
  | noRandom
  | randomFailed
  | badBlob
  | wrapCheck
  | notOpen
deriving DecidableEq, Repr

/-- The states of a context (R64). -/
inductive ContextState where
  | free
  | active
  | flushing
  | ending
  | reporting
deriving DecidableEq, Repr

/-- The five read status counts of a context (Table 4-1). -/
structure ReadCounts where
  stale     : Nat
  checkFail : Nat
  zero      : Nat
  void      : Nat
  mismatch  : Nat
deriving DecidableEq, Repr

/-- A record of the Transfer Context Table (R62, Table 4-1). -/
structure Context where
  state      : ContextState
  direction  : Direction
  start      : Nat
  count      : Nat
  format     : FormatCode
  taken      : Nat
  finished   : Nat
  jobs       : Nat
  /-- The arrival map: bit i is the mark of index i. -/
  marks      : BitVec 256
  ending     : Option Ending
  firstFail  : Option Nat
  counts     : ReadCounts
  deadline   : Option Time
  suppressed : Bool
deriving DecidableEq, Repr

/-- A record of the Range Table (R21, Table 2-1). -/
structure RangeRecord where
  enabled    : Bool
  start      : Nat
  length     : Nat
  slot       : Option SlotIx
  readLock   : Bool
  writeLock  : Bool
  metaCipher : Bool
  zeroMark   : Bool
  linkLock   : Bool
  checkMask  : Byte
  tweakBase  : BitVec 64
deriving DecidableEq, Repr

/-- The states of a key slot (R40). -/
inductive SlotState where
  | empty
  | filling
  | ready
  | draining
deriving DecidableEq, Repr

/-- A record of the Key Slot Table (R39, Table 3-1). The drain set is present in DRAINING only; absent is `[]`
(a drain is complete at the event at which its set is empty, R56; log entry 22). -/
structure SlotRecord where
  state      : SlotState
  dataKey    : Key
  tweakKey   : Key
  generation : Generation
  pins       : Nat
  drainSet   : List Tag
deriving DecidableEq, Repr

/-- The 64 bytes of a wrapping entry that is not EMPTY (R44). An EMPTY entry, whose bytes are zero, is `none`. -/
structure WrappingKey where
  halfA : Key
  halfB : Key
deriving DecidableEq, Repr

/-- The states of the Random Source (R47). -/
inductive RandomState where
  | warming
  | ready
  | failed
deriving DecidableEq, Repr

/-- The input set of one sector computation (Table 1-1), with ZERO_MARK (R103). -/
structure InputSet where
  lba        : Nat
  range      : RangeIx
  rangeStart : Nat
  tweakBase  : BitVec 64
  metaCipher : Bool
  checkMask  : Byte
  zeroMark   : Bool
  generation : Generation
  dataKey    : Key
  tweakKey   : Key
  format     : FormatCode
deriving DecidableEq, Repr

/-- The 8-byte trailer of a media frame (R122, Table 11-4a). -/
structure Trailer where
  check : BitVec 32
  stamp : Generation
  range : Byte
  form  : Byte
deriving DecidableEq, Repr

/-- The sector bytes of a lane job (Table 6-1); they also fix the job's direction. -/
inductive SectorBytes where
  /-- A WRITE: the D + M plaintext bytes. -/
  | plain (bytes : Bytes)
  /-- A READ: the ciphertext region, the clear metadata (M = 8 and m = 0) and the trailer. -/
  | ciphered (region clear : Bytes) (trailer : Trailer)
deriving DecidableEq, Repr

/-- A lane job (R100, Table 6-1). The LBA and the range index are members of the input set. -/
structure Job where
  tag    : Tag
  index  : Nat
  slot   : SlotIx
  inputs : InputSet
  sector : SectorBytes
deriving DecidableEq, Repr

/-- A cipher lane (R100). -/
inductive Lane where
  | idle
  | running (job : Job)
  | holding (job : Job) (output : Frame) (target : SectorQueue)
deriving DecidableEq, Repr

/-- What follows a completed drain (R58, R59). -/
inductive DrainGoal where
  | rekey (entry : EntryIx) (generation : Generation)
  | discard
deriving DecidableEq, Repr

/-- Where an executing key directive stands (R48, R53 to R57). -/
inductive Task where
  /-- Waiting for or taking random bytes; the slot is FILLING. -/
  | filling (slot : SlotIx) (entry : EntryIx) (generation : Generation)
  /-- The fill has ended and the record is being made; the slot is FILLING. -/
  | wrapping (slot : SlotIx) (entry : EntryIx) (generation : Generation) (dataKey tweakKey : Key) (nonce : Nonce)
  /-- The record of an INSTALL KEY is being checked and opened; the slot is FILLING. -/
  | opening (slot : SlotIx) (entry : EntryIx) (record : Bytes)
  /-- The slot is DRAINING; the drain timer runs in WAIT mode until it expires. -/
  | draining (slot : SlotIx) (goal : DrainGoal) (timer : Option Time)
deriving DecidableEq, Repr

/-- The executing directive (R138). `silent`: its RESPONSE is discarded at its end, after a front link loss. -/
structure Executing where
  task   : Task
  silent : Bool
deriving DecidableEq, Repr

/-- The stored limits (Table 9-4); the event enable mask stands with the event flags. -/
structure Limits where
  ceiling  : Nat
  fiqHigh  : Nat
  fiqLow   : Nat
  miqHigh  : Nat
  miqLow   : Nat
  /-- Idle timeout, units of 100 microseconds; 0 disables. -/
  idle     : Nat
  /-- Drain timeout, milliseconds. -/
  drain    : Nat
  /-- Auto-lock selector. -/
  selector : Nat
deriving DecidableEq, Repr

/-- The Event Summary (R145, R149): bit n of `flags` and of `mask` is flag n of Table 11-5. -/
structure Events where
  flags     : BitVec 15
  mask      : BitVec 15
  attention : Bool
deriving DecidableEq, Repr

/-- The whole state of the part, and the queue of commands that wait. -/
structure State where
  /-- The power-on reset input is asserted (R156). -/
  inReset   : Bool
  /-- The time base (R157). -/
  time      : Time
  front     : Port
  media     : Port
  /-- The auto-lock timer: `none` is stopped (R155). -/
  autoLock  : Option Time
  frontTurn : FrontTurn
  fiq       : List Queued
  miq       : List Queued
  drq       : List DrqEntry
  moq       : List Frame
  fsq       : List Frame
  rpq       : List Frame
  verdict   : Option Verdict
  ranges    : Vector RangeRecord 16
  slots     : Vector SlotRecord 16
  wrapping  : Vector (Option WrappingKey) 4
  random    : RandomState
  contexts  : Vector Context 64
  lanes     : Vector Lane 4
  laneTurn  : LaneTurn
  moqHold   : List LaneIx
  fsqHold   : List LaneIx
  /-- The Directive Unit: `none` is IDLE (R138). -/
  du        : Option Executing
  limits    : Limits
  events    : Events
  /-- The commands that wait, first in first out (the form of this row, log entry 2). -/
  pending   : List Instr
deriving DecidableEq, Repr

/-- The reasons a command stops the model. -/
inductive Fault where
  /-- Raised by LANE_JOB_START when the range of the candidate's LBA names no key slot. R104: a job start's slot is
  READY or DRAINING, so this does not arise on the part. Safe: the model stops where the manual says nothing can be. -/
  | jobStartWithoutSlot
deriving DecidableEq, Repr

/-- The reasons a command has no meaning. -/
inductive Refusal where
  /-- Raised by no arm of this model: every command has a meaning. Safe. -/
  | notModelled (mnemonic : String)
deriving DecidableEq, Repr

/-- A port after power-on (R99, R150, R156). -/
def Port.reset : Port :=
  { link := .down, held := false, peerHold := false, pendingFlow := none, told := none, sending := none, line := none }

/-- The contents of a disabled range record (R21, Table 2-5). -/
def RangeRecord.disabled : RangeRecord :=
  { enabled := false, start := 0, length := 0, slot := none, readLock := false, writeLock := false,
    metaCipher := false, zeroMark := false, linkLock := false, checkMask := 0, tweakBase := 0 }

/-- Range 0 after a reset: enabled, no slot, everything else clear (Table 2-5). -/
def RangeRecord.global : RangeRecord := { RangeRecord.disabled with enabled := true }

/-- The Range Table after a reset (R37). -/
def resetRanges : Vector RangeRecord 16 := (Vector.replicate 16 RangeRecord.disabled).set 0 RangeRecord.global

/-- A slot after a reset (Table 3-4). -/
def SlotRecord.reset : SlotRecord :=
  { state := .empty, dataKey := 0, tweakKey := 0, generation := 0, pins := 0, drainSet := [] }

/-- Five counts of zero. -/
def ReadCounts.zeros : ReadCounts := { stale := 0, checkFail := 0, zero := 0, void := 0, mismatch := 0 }

/-- A context in FREE: the values R83 gives for power-on (R62). -/
def Context.free : Context :=
  { state := .free, direction := .write, start := 0, count := 1, format := 0, taken := 0, finished := 0, jobs := 0,
    marks := 0, ending := none, firstFail := none, counts := ReadCounts.zeros, deadline := none, suppressed := false }

/-- The limits after power-on and engine reset (Table 9-4). -/
def Limits.reset : Limits :=
  { ceiling := Config.maxCeiling, fiqHigh := 12, fiqLow := 4, miqHigh := 12, miqLow := 4, idle := 10000, drain := 5000,
    selector := 0 }

/-- The Event Summary after power-on: POWER_ON (bit 0) set, the mask all set, ATTENTION asserted (Table 9-7, R147). -/
def Events.reset : Events := { flags := 1, mask := BitVec.allOnes 15, attention := true }

/-- The machine right after the power-on event (R156). -/
def State.reset : State :=
  { inReset := false, time := 0, front := Port.reset, media := Port.reset, autoLock := none, frontTurn := .rpq,
    fiq := [], miq := [], drq := [], moq := [], fsq := [], rpq := [], verdict := none,
    ranges := resetRanges, slots := Vector.replicate 16 SlotRecord.reset, wrapping := Vector.replicate 4 none,
    random := .warming, contexts := Vector.replicate 64 Context.free, lanes := Vector.replicate 4 Lane.idle,
    laneTurn := .front, moqHold := [], fsqHold := [], du := none, limits := Limits.reset, events := Events.reset,
    pending := [] }

end Sys2Proof.Machine
end

