-- ==== Sys2Proof/Machine/Flags.lean ====
section
/-! DEFINITION. The Event Summary: the fifteen event flags, their setting and clearing, and the ATTENTION line
(R145, R146, R149). -/

namespace Sys2Proof.Machine

/-- The bit numbers of the event flags (Table 11-5). -/
def Flag.powerOn : Fin 15 := 0
def Flag.engineReset : Fin 15 := 1
def Flag.linkLocked : Fin 15 := 2
def Flag.directiveLost : Fin 15 := 3
def Flag.frameDamaged : Fin 15 := 4
def Flag.wrongKind : Fin 15 := 5
def Flag.orphanSector : Fin 15 := 6
def Flag.tagBusy : Fin 15 := 7
def Flag.duplicateSector : Fin 15 := 8
def Flag.overrunFront : Fin 15 := 9
def Flag.overrunMedia : Fin 15 := 10
def Flag.drainCut : Fin 15 := 11
def Flag.randomFail : Fin 15 := 12
def Flag.staleRead : Fin 15 := 13
def Flag.checkFailRead : Fin 15 := 14

/-- The word in which only the bit of flag `f` is set. -/
def flagBit (f : Fin 15) : BitVec 15 := 1#15 <<< f.val

/-- ATTENTION takes its level: some flag is set whose enable bit is set (R149). -/
def Events.evaluate (e : Events) : Events := { e with attention := decide (e.flags &&& e.mask ≠ 0) }

/-- A flag is set (R145). -/
def Events.raise (f : Fin 15) (e : Events) : Events := Events.evaluate { e with flags := e.flags ||| flagBit f }

/-- The flags whose mask bit is set are cleared (R146). -/
def Events.clear (m : BitVec 15) (e : Events) : Events := Events.evaluate { e with flags := e.flags &&& ~~~m }

/-- The enable mask is stored (R143). -/
def Events.store (m : BitVec 15) (e : Events) : Events := Events.evaluate { e with mask := m }

/-- The Event Summary after RESET ENGINE: POWER_ON as before, ENGINE_RESET set, the rest clear, the mask all set (R148). -/
def Events.engineReset (e : Events) : Events :=
  Events.evaluate { e with flags := e.flags &&& flagBit Flag.powerOn ||| flagBit Flag.engineReset, mask := BitVec.allOnes 15 }

/-- A flag of the part is set. -/
def raise (f : Fin 15) (s : State) : State := { s with events := s.events.raise f }

/-- A flag is set when a condition holds. -/
def raiseIf (c : Bool) (f : Fin 15) (s : State) : State := if c then raise f s else s

end Sys2Proof.Machine
end

