-- ==== Sys2Proof/Machine/Bytes.lean ====
section
/-! DEFINITION. Little-endian fields of byte sequences (00_scope.md, section 6). -/

namespace Sys2Proof.Machine

/-- The number that a little-endian byte sequence holds. -/
def leNat : Bytes → Nat
  | [] => 0
  | b :: bs => b.toNat + 256 * leNat bs

/-- The `k` bytes of a number, least significant first; higher bits are dropped. -/
def leBytes : Nat → Nat → Bytes
  | 0, _ => []
  | k + 1, n => BitVec.ofNat 8 n :: leBytes k (n / 256)

/-- Byte `i` of a sequence; 00h beyond its end. -/
def byteAt (bs : Bytes) (i : Nat) : Byte := bs.getD i 0

/-- The `len` bytes at offset `off`. -/
def slice (bs : Bytes) (off len : Nat) : Bytes := (bs.drop off).take len

/-- The number in the `len` bytes at offset `off`. -/
def field (bs : Bytes) (off len : Nat) : Nat := leNat (slice bs off len)

/-- The first 16 bytes of a sequence as a block. -/
def blockOfBytes (bs : Bytes) : Block := BitVec.ofNat 128 (leNat (bs.take 16))

/-- The 16 bytes of a block. -/
def bytesOfBlock (b : Block) : Bytes := leBytes 16 b.toNat

/-- The first 32 bytes of a sequence as a key. -/
def keyOfBytes (bs : Bytes) : Key := BitVec.ofNat 256 (leNat (bs.take 32))

/-- The 32 bytes of a key. -/
def bytesOfKey (k : Key) : Bytes := leBytes 32 k.toNat

/-- A run of zero bytes. -/
def zeroBytes (n : Nat) : Bytes := List.replicate n 0

/-- A Boolean as bit `i` of a byte's value. -/
def bitValue (b : Bool) (i : Nat) : Nat := if b then 2 ^ i else 0

end Sys2Proof.Machine
end

