-- ==== Sys2Proof/Machine/Checks.lean ====
section
/-! DEFINITION. The two cyclic redundancy checks: the 32-bit check word, which is also the payload check (R16, R159), and
the 16-bit header check (R159). -/

namespace Sys2Proof.Machine

/-- One shift of the 32-bit remainder toward its least significant end (R16). -/
def check32Shift (r : BitVec 32) : BitVec 32 :=
  if r.getLsbD 0 then (r >>> 1) ^^^ 0x82F63B78#32 else r >>> 1

/-- One input byte combined into the 32-bit remainder (R16). -/
def check32Byte (r : BitVec 32) (b : Byte) : BitVec 32 :=
  Nat.repeat check32Shift 8 (r ^^^ b.setWidth 32)

/-- The check word of a byte sequence (R16). -/
def check32 (bs : Bytes) : BitVec 32 :=
  bs.foldl check32Byte 0xFFFFFFFF#32 ^^^ 0xFFFFFFFF#32

/-- One shift of the 16-bit remainder toward its most significant end (R159). -/
def check16Shift (r : BitVec 16) : BitVec 16 :=
  if r.getMsbD 0 then (r <<< 1) ^^^ 0x1021#16 else r <<< 1

/-- One header byte combined into the 16-bit remainder (R159). -/
def check16Byte (r : BitVec 16) (b : Byte) : BitVec 16 :=
  Nat.repeat check16Shift 8 (r ^^^ (b.setWidth 16 <<< 8))

/-- The header check of a byte sequence (R159). -/
def check16 (bs : Bytes) : BitVec 16 :=
  bs.foldl check16Byte 0xFFFF#16

end Sys2Proof.Machine
end

