-- ==== Sys2Proof/Machine/Frames.lean ====
section
/-! DEFINITION. Frame layouts (Chapter 11): the header's bytes and fields, the checks of an arriving frame, and the frames
the part builds. -/

namespace Sys2Proof.Machine

/-- Kind codes (Table 11-2). -/
def Kind.opening : Byte := 1
def Kind.sector : Byte := 2
def Kind.directive : Byte := 3
def Kind.completion : Byte := 4
def Kind.response : Byte := 5
def Kind.zero : Byte := 6
def Kind.void : Byte := 7
def Kind.hold : Byte := 8
def Kind.go : Byte := 9

/-- Header bytes 0 to 13 in order (Table 11-1). -/
def headerBody (h : Header) : Bytes :=
  [h.kind, h.tag, h.index, h.form] ++ leBytes 5 h.lba.toNat ++ [h.countLess1] ++ leBytes 2 h.length.toNat ++
    leBytes 2 h.unused.toNat

/-- The 16 header bytes. -/
def headerBytes (h : Header) : Bytes := headerBody h ++ leBytes 2 h.check.toNat

/-- The bytes of a frame as a link carries them. -/
def frameBytes (f : Frame) : Bytes := headerBytes f.header ++ f.payload ++ leBytes 4 f.check.toNat

/-- The header that sixteen bytes spell (Table 11-1). -/
def headerOfBytes (bs : Bytes) : Header :=
  { kind := byteAt bs 0, tag := byteAt bs 1, index := byteAt bs 2, form := byteAt bs 3,
    lba := BitVec.ofNat 40 (field bs 4 5), countLess1 := byteAt bs 9, length := BitVec.ofNat 16 (field bs 10 2),
    unused := BitVec.ofNat 16 (field bs 12 2), check := BitVec.ofNat 16 (field bs 14 2) }

/-- The header check passes (R88, R159). -/
def headerGood (f : Frame) : Bool := f.header.check == check16 (headerBody f.header)

/-- The payload check fails (R89, R159). -/
def payloadDamaged (f : Frame) : Bool := f.check != check32 f.payload

/-- The payload length that the header states (R158). -/
def payloadLength (f : Frame) : Nat := f.header.length.toNat

/-- The format code, bits 0 to 2 of byte 3: 0 to 7 (Table 11-1). -/
def frameFormat (f : Frame) : Nat := f.header.form.toNat % 8

/-- The direction, bit 7 of byte 3: 0 WRITE, 1 READ (Table 11-1). -/
def frameDirection (f : Frame) : Direction := if f.header.form.getLsbD 7 then .read else .write

/-- The LBA field. -/
def frameLba (f : Frame) : Nat := f.header.lba.toNat

/-- The sector index, byte 2. -/
def frameIndex (f : Frame) : Nat := f.header.index.toNat

/-- The count, carried as count − 1 (Table 11-1). -/
def frameCount (f : Frame) : Nat := f.header.countLess1.toNat + 1

/-- The context that a transfer frame's tag names; a tag above 63 never enters a queue (R87). -/
def frameTag (f : Frame) : Tag := Fin.ofNat 64 f.header.tag.toNat

/-- The trailer in eight bytes (Table 11-4a). -/
def trailerOfBytes (bs : Bytes) : Trailer :=
  { check := BitVec.ofNat 32 (field bs 0 4), stamp := BitVec.ofNat 16 (field bs 4 2), range := byteAt bs 6,
    form := byteAt bs 7 }

/-- The eight bytes of a trailer (Table 11-4a). -/
def trailerBytes (t : Trailer) : Bytes :=
  leBytes 4 t.check.toNat ++ leBytes 2 t.stamp.toNat ++ [t.range, t.form]

/-- Direction code (Table 11-1). -/
def directionCode : Direction → Nat
  | .write => 0
  | .read => 1

/-- Read sector status codes (Table 11-6). -/
def readStatusCode : ReadStatus → Nat
  | .good => 0
  | .checkFail => 1
  | .stale => 2
  | .zero => 3
  | .void => 4
  | .mismatch => 5

/-- Ending status codes (Table 11-6). -/
def endingCode : Ending → Nat
  | .done => 0
  | .locked => 1
  | .noKey => 2
  | .keyChanging => 3
  | .outOfRange => 4
  | .badFormat => 5
  | .badLength => 6
  | .sequence => 7
  | .damaged => 8
  | .overrun => 9
  | .timeout => 10
  | .abandoned => 11
  | .erased => 12
  | .tagReuse => 13
  | .mediaLost => 14

/-- Result codes (Table 11-7). -/
def resultCode : Result → Nat
  | .ok => 0
  | .badParam => 1
  | .damaged => 2
  | .rangeBusy => 3
  | .overlap => 4
  | .outOfRange => 5
  | .rangeConflict => 6
  | .slotState => 7
  | .sameGeneration => 8
  | .noWrap => 9
  | .noRandom => 10
  | .randomFailed => 11
  | .badBlob => 12
  | .wrapCheck => 13
  | .notOpen => 14

/-- Byte 3 of a header: format, read sector status and direction (Table 11-1). -/
def formOf (format status direction : Nat) : Byte := BitVec.ofNat 8 (format + 8 * status + 128 * direction)

/-- A frame the part builds: its length field, its two checks, its unused bytes zero (R158, R159). -/
def buildFrame (kind tag index form : Byte) (lba : Nat) (countLess1 : Nat) (payload : Bytes) : Frame :=
  let h : Header :=
    { kind := kind, tag := tag, index := index, form := form, lba := BitVec.ofNat 40 lba,
      countLess1 := BitVec.ofNat 8 countLess1, length := BitVec.ofNat 16 payload.length, unused := 0, check := 0 }
  { header := { h with check := check16 (headerBody h) }, payload := payload, check := check32 payload }

/-- A HOLD or GO of the part (Table 11-3). -/
def flowFrame (f : Flow) : Frame :=
  buildFrame (match f with | .hold => Kind.hold | .go => Kind.go) 0 0 0 0 0 []

/-- The 14-byte payload of a COMPLETION; the counts are sent as zero for a WRITE context (Table 11-9a, R161). -/
def completionPayload (c : Context) : Bytes :=
  let n := match c.direction with | .write => ReadCounts.zeros | .read => c.counts
  leBytes 2 c.finished ++ [BitVec.ofNat 8 (bitValue c.firstFail.isSome 0), BitVec.ofNat 8 (c.firstFail.getD 0)] ++
    leBytes 2 n.stale ++ leBytes 2 n.checkFail ++ leBytes 2 n.zero ++ leBytes 2 n.void ++ leBytes 2 n.mismatch

/-- The COMPLETION of a context (R82, Tables 4-6 and 11-3). -/
def completionFrame (tag : Tag) (c : Context) : Frame :=
  buildFrame Kind.completion (BitVec.ofNat 8 tag.val) (BitVec.ofNat 8 ((c.ending.map endingCode).getD 0))
    (formOf c.format.val 0 (directionCode c.direction)) c.start (c.count - 1) (completionPayload c)

/-- The directive code of a DIRECTIVE's payload: byte 0, or 0 when the payload is empty (R160, R161). -/
def directiveCode (f : Frame) : Byte := byteAt f.payload 0

/-- The RESPONSE to a DIRECTIVE: the code alone, then the data when the result is OK (R139, R161). -/
def responseFrame (directive : Frame) (r : Result) (data : Bytes) : Frame :=
  buildFrame Kind.response directive.header.tag (BitVec.ofNat 8 (resultCode r)) 0 0 0
    (directiveCode directive :: (if r = .ok then data else []))

/-- A media SECTOR or ZERO frame (R120, Table 11-3). -/
def mediaFrame (kind : Byte) (tag : Tag) (c : Context) (index lba : Nat) (payload : Bytes) : Frame :=
  buildFrame kind (BitVec.ofNat 8 tag.val) (BitVec.ofNat 8 index) (formOf c.format.val 0 0) lba (c.count - 1) payload

/-- A front read SECTOR (R132, Table 11-3): it names the expected LBA. -/
def readFrame (tag : Tag) (c : Context) (index : Nat) (status : ReadStatus) (payload : Bytes) : Frame :=
  buildFrame Kind.sector (BitVec.ofNat 8 tag.val) (BitVec.ofNat 8 index)
    (formOf c.format.val (readStatusCode status) 1) (c.start + index) (c.count - 1) payload

end Sys2Proof.Machine
end

