-- ==== Sys2Proof/Machine/Ops.lean ====
section
/-! DEFINITION. The named operations on the state that several commands share: the single-record updates, the ports'
flow control, the intake queues' entries and departures, the transmitters, and the answering of a directive. -/

namespace Sys2Proof.Machine

/-! ### Single-record updates -/

/-- One context record is replaced. -/
def putContext (t : Tag) (c : Context) (s : State) : State := { s with contexts := s.contexts.set t c }

/-- One slot record is replaced. -/
def putSlot (k : SlotIx) (r : SlotRecord) (s : State) : State := { s with slots := s.slots.set k r }

/-- One range record is replaced. -/
def putRange (k : RangeIx) (r : RangeRecord) (s : State) : State := { s with ranges := s.ranges.set k r }

/-- One wrapping entry is replaced. -/
def putEntry (e : EntryIx) (w : Option WrappingKey) (s : State) : State := { s with wrapping := s.wrapping.set e w }

/-- One lane is replaced. -/
def putLane (l : LaneIx) (x : Lane) (s : State) : State := { s with lanes := s.lanes.set l x }

/-- A port of the part. -/
def State.port (s : State) : PortId → Port
  | .front => s.front
  | .media => s.media

/-- One port is replaced. -/
def putPort (p : PortId) (x : Port) (s : State) : State :=
  match p with
  | .front => { s with front := x }
  | .media => { s with media := x }

/-- The timed span from now to a deadline, when the deadline lies ahead; 0 when it has passed. The time base wraps
modulo 2^64 (log entry 16). -/
def timeRemaining (now deadline : Time) : Nat :=
  let d := (deadline - now).toNat
  if d < 2 ^ 63 then d else 0

/-- A number of microseconds added to a point in time (R157). -/
def timeAfter (now : Time) (us : Nat) : Time := now + BitVec.ofNat 64 us

/-! ### Flow control sent by the part (R93) -/

/-- The high mark of a port's intake queue. -/
def highMark (p : PortId) (l : Limits) : Nat := match p with | .front => l.fiqHigh | .media => l.miqHigh

/-- The low mark of a port's intake queue. -/
def lowMark (p : PortId) (l : Limits) : Nat := match p with | .front => l.fiqLow | .media => l.miqLow

/-- A flow frame of the port is in transmission. -/
def flowInTransmission (x : Port) : Bool :=
  match x.sending with
  | some (.flow _) => true
  | _ => false

/-- A due HOLD or GO replaces the pending flow frame: it cancels the opposite one (R93). -/
def dueFlow (due : Flow) : Option Flow → Option Flow
  | none => some due
  | some f => if f = due then some f else none

/-- The marks of a port's intake queue are tested against a depth, unless a flow frame is in transmission (R93).
DESIGN CHOICE (log entry 26): a HOLD or GO that an engine reset found in transmission is no longer the pending flow frame
(R99), and the test waits for its end all the same. -/
def markTest (high low depth : Nat) (x : Port) : Port :=
  if flowInTransmission x then x
  else if !x.held && high ≤ depth then { x with held := true, pendingFlow := dueFlow .hold x.pendingFlow }
  else if x.held && depth ≤ low then { x with held := false, pendingFlow := dueFlow .go x.pendingFlow }
  else x

/-- The intake queue of a port. -/
def State.intake (s : State) : PortId → List Queued
  | .front => s.fiq
  | .media => s.miq

/-- The mark test of a port at the queue depth and the marks as they stand (R93). -/
def testMarks (p : PortId) (s : State) : State :=
  putPort p (markTest (highMark p s.limits) (lowMark p s.limits) (s.intake p).length (s.port p)) s

/-- An intake queue takes new contents, and its depth is tested against the marks (R86, R93). -/
def putIntake (p : PortId) (q : List Queued) (s : State) : State :=
  testMarks p (match p with | .front => { s with fiq := q } | .media => { s with miq := q })

/-- The head frame of an intake queue leaves it (R86). A media head takes its verdict with it (R127). -/
def popIntake (p : PortId) (s : State) : State :=
  match p with
  | .front => putIntake .front s.fiq.tail s
  | .media => putIntake .media s.miq.tail { s with verdict := none }

/-! ### The transmitters (R96, R97) -/

/-- The transmitter begins on a frame; a flow frame is what the partner is last told (R99). -/
def beginSending (x : Sending) (p : Port) : Port :=
  match x with
  | .flow f => { p with sending := some x, told := some f }
  | _ => { p with sending := some x }

/-- What the front arbiter chooses, when the transmitter is free and the link UP (R96). -/
def frontChoice (s : State) : Option Sending :=
  match s.front.pendingFlow with
  | some f => some (.flow f)
  | none =>
    if s.front.peerHold then none
    else match s.rpq, s.fsq, s.frontTurn with
      | [], [], _ => none
      | _ :: _, [], _ => some .rpq
      | [], _ :: _, _ => some .fsq
      | _ :: _, _ :: _, .rpq => some .rpq
      | _ :: _, _ :: _, .fsq => some .fsq

/-- The pointer after the arbiter starts to send: it names the other queue (R96). -/
def turnAfter (x : Sending) (t : FrontTurn) : FrontTurn :=
  match x with
  | .rpq => .fsq
  | .fsq => .rpq
  | _ => t

/-- The front transmitter, when it is free and its link UP, begins on the frame its arbiter chooses (R96). -/
def frontTransmit (s : State) : State :=
  if s.front.link = .up ∧ s.front.sending = none then
    match frontChoice s with
    | some x => { s with front := beginSending x s.front, frontTurn := turnAfter x s.frontTurn }
    | none => s
  else s

/-- What the media transmitter sends next, when it is free and its link UP (R97). -/
def mediaChoice (s : State) : Option Sending :=
  match s.media.pendingFlow with
  | some f => some (.flow f)
  | none => if s.media.peerHold ∨ s.moq = [] then none else some .moq

/-- The media transmitter, when it is free and its link UP, begins on its next frame (R97). -/
def mediaTransmit (s : State) : State :=
  if s.media.link = .up ∧ s.media.sending = none then
    match mediaChoice s with
    | some x => { s with media := beginSending x s.media }
    | none => s
  else s

/-- Both transmitters choose at the end of an event (R96, R97; log entry 11). -/
def transmit (s : State) : State := mediaTransmit (frontTransmit s)

/-! ### Answering a directive (R91, R138, R139) -/

/-- The first entry of the Directive Queue that has not been executed. -/
def firstUnexecuted (q : List DrqEntry) : Option DrqEntry := q.find? (fun e => !e.executed)

/-- The first unexecuted entry is marked executed: it waits for its RESPONSE to leave (R91). -/
def markExecuted : List DrqEntry → List DrqEntry
  | [] => []
  | e :: q => if e.executed then e :: markExecuted q else { e with executed := true } :: q

/-- The first unexecuted entry is freed without a RESPONSE (R98). -/
def dropUnexecuted : List DrqEntry → List DrqEntry
  | [] => []
  | e :: q => if e.executed then e :: dropUnexecuted q else q

/-- The response of the executing directive is to be discarded (R138). -/
def silentUnit (s : State) : Bool := match s.du with | some x => x.silent | none => false

/-- The first unexecuted directive ends: its RESPONSE enters the Report Queue and the unit becomes IDLE in the same event
(R138), or, after a front link loss, the response is discarded and the entry freed (R98). -/
def answer (r : Result) (data : Bytes) (s : State) : State :=
  match firstUnexecuted s.drq with
  | none => { s with du := none }
  | some e =>
    if silentUnit s then { s with du := none, drq := dropUnexecuted s.drq }
    else { s with du := none, drq := markExecuted s.drq, rpq := s.rpq ++ [responseFrame e.frame r data] }

end Sys2Proof.Machine
end

