-- ==== Sys2Proof/Machine/Ranges.lean ====
section
/-! DEFINITION. The Range Table read: coverage, lookup, the ranges a span touches, and the RANGE_BUSY test
(R22 to R25, R30). -/

namespace Sys2Proof.Machine

/-- The end of a range, exclusive: start LBA plus length (R23). -/
def RangeRecord.stop (r : RangeRecord) : Nat := r.start + r.length

/-- An enabled range 1 to 15 holds an LBA (R24). -/
def RangeRecord.holds (r : RangeRecord) (l : Nat) : Bool := r.enabled && r.start ≤ l && l < r.stop

/-- The range indices in ascending order. -/
def rangeIndices : List RangeIx := List.finRange 16

/-- The lookup of an LBA: the enabled range 1 to 15 that holds it, or range 0 (R24). -/
def lookup (rt : Vector RangeRecord 16) (l : Nat) : RangeIx :=
  (rangeIndices.find? (fun (k : RangeIx) => k != 0 && rt[k].holds l)).getD (0 : RangeIx)

/-- The distinct elements of a list in the order of their first occurrence. -/
def firsts : List RangeIx → List RangeIx
  | [] => []
  | k :: ks => k :: (firsts ks).filter (· != k)

/-- The ranges that a span touches, in ascending order of the lowest LBA of the span that each holds (R25). -/
def touched (rt : Vector RangeRecord 16) (start count : Nat) : List RangeIx :=
  firsts ((List.range count).map (fun i => lookup rt (start + i)))

/-- Two extents, given by start and exclusive end, share at least one LBA (R29). -/
def extentsMeet (a1 e1 a2 e2 : Nat) : Bool := max a1 a2 < min e1 e2

/-- An open state of a context (R64). -/
def ContextState.isOpen : ContextState → Bool
  | .active | .flushing | .ending => true
  | .free | .reporting => false

/-- The tags in ascending order. -/
def allTags : List Tag := List.finRange 64

/-- A context in ACTIVE, FLUSHING or ENDING has a span that meets an extent (R30). -/
def extentBusy (cs : Vector Context 64) (a e : Nat) : Bool :=
  allTags.any (fun t => cs[t].state.isOpen && extentsMeet cs[t].start (cs[t].start + cs[t].count) a e)

/-- A context in ACTIVE, FLUSHING or ENDING has a span that holds an LBA of range 0 (R30). -/
def globalBusy (rt : Vector RangeRecord 16) (cs : Vector Context 64) : Bool :=
  allTags.any (fun t => cs[t].state.isOpen && (touched rt cs[t].start cs[t].count).contains 0)

/-- The current extent of a range 1 to 15 is busy; a disabled range has an empty extent (R30, R32). -/
def currentExtentBusy (k : RangeIx) (s : State) : Bool :=
  s.ranges[k].enabled && extentBusy s.contexts s.ranges[k].start s.ranges[k].stop

/-- A range references a slot when it is enabled and names it (R21). -/
def references (r : RangeRecord) (k : SlotIx) : Bool := r.enabled && r.slot == some k

/-- The number of ranges that reference a slot (R21, R144). -/
def referenceCount (rt : Vector RangeRecord 16) (k : SlotIx) : Nat :=
  (rangeIndices.filter (fun j => references rt[j] k)).length

/-- A span touches a range that references a slot (R55). -/
def spanUses (rt : Vector RangeRecord 16) (k : SlotIx) (start count : Nat) : Bool :=
  (touched rt start count).any (fun j => references rt[j] k)

/-- The drain set of a slot: every open context whose span touches a range referencing it, each tag once (R55). -/
def drainSetOf (k : SlotIx) (s : State) : List Tag :=
  allTags.filter (fun t => s.contexts[t].state.isOpen && spanUses s.ranges k s.contexts[t].start s.contexts[t].count)

end Sys2Proof.Machine
end

