-- ==== Sys2Proof/Machine/Transform.lean ====
section
/-! DEFINITION. The sector transform (Chapter 1): formats, seed, tweaks, ciphering with tail stealing, the check word, the
zero test, and the supplied-seed form. -/

namespace Sys2Proof.Machine

/-- The data length D of a format code (R3). -/
def dataLength (f : FormatCode) : Nat := if f.val < 2 then 512 else 4096

/-- The metadata length M of a format code (R3). -/
def metaLength (f : FormatCode) : Nat := if f.val % 2 = 1 then 8 else 0

/-- The sector size D + M of a format code (R3). -/
def sectorLength (f : FormatCode) : Nat := dataLength f + metaLength f

/-- The metadata cipher bit m: META_CIPHER clamped by the format (R4). -/
def metaBit (metaCipher : Bool) (f : FormatCode) : Bool := metaCipher && metaLength f == 8

/-- The format byte f + 4m (R4, R122). -/
def formatByte (metaCipher : Bool) (f : FormatCode) : Byte :=
  BitVec.ofNat 8 (f.val + bitValue (metaBit metaCipher f) 2)

/-- The ciphered length L = D + 8m (R5). -/
def cipheredLength (metaCipher : Bool) (f : FormatCode) : Nat :=
  dataLength f + if metaBit metaCipher f then 8 else 0

/-- The tweak offset: LBA − range start + tweak base, modulo 2^64 (R6). -/
def tweakOffset (i : InputSet) : BitVec 64 := BitVec.ofNat 64 (i.lba - i.rangeStart + i.tweakBase.toNat)

/-- The 16 bytes of the seed (R7, Table 1-4). -/
def seedBytes (i : InputSet) : Bytes :=
  leBytes 8 (tweakOffset i).toNat ++ leBytes 2 i.generation.toNat ++
    [BitVec.ofNat 8 i.range.val, formatByte i.metaCipher i.format] ++ zeroBytes 4

/-- The seed as a block (R7). -/
def seed (i : InputSet) : Block := blockOfBytes (seedBytes i)

/-- The double of a tweak (R9). -/
def double (t : Block) : Block := (t <<< 1) ^^^ (if t.getMsbD 0 then 0x87#128 else 0#128)

/-- Tweak `j` of the sequence that begins with `t` (R9). -/
def tweakAt (t : Block) (j : Nat) : Block := Nat.repeat double j t

/-- One full block: XOR with the tweak, the keyed permutation or its inverse, XOR with the tweak again (R11, R13). -/
def cipherBlock (p : Equiv.Perm Block) (tweak b : Block) : Block := p (b ^^^ tweak) ^^^ tweak

/-- The first `q` full blocks of a region, each under its own tweak, from tweak `t` on (R11, R13). -/
def cipherBlocks (p : Equiv.Perm Block) : Nat → Block → Bytes → Bytes
  | 0, _, _ => []
  | q + 1, t, bs => bytesOfBlock (cipherBlock p t (blockOfBytes bs)) ++ cipherBlocks p q (double t) (bs.drop 16)

/-- The last full block and the 8-byte tail under tail stealing (R12, R14): `first` is the tweak used first (tweak q − 1
forward, tweak q inverse), `second` the other. The result is the 16-byte block followed by the 8-byte tail. -/
def stealTail (p : Equiv.Perm Block) (first second : Block) (bs : Bytes) : Bytes :=
  let inter := bytesOfBlock (cipherBlock p first (blockOfBytes (bs.take 16)))
  let stolen := slice bs 16 8 ++ inter.drop 8
  bytesOfBlock (cipherBlock p second (blockOfBytes stolen)) ++ inter.take 8

/-- A region of L bytes, from tweak 0 on, in the forward direction (R11, R12). -/
def cipherRegion (p : Equiv.Perm Block) (t0 : Block) (region : Bytes) : Bytes :=
  let q := region.length / 16
  if region.length % 16 = 0 then cipherBlocks p q t0 region
  else cipherBlocks p (q - 1) t0 region ++
    stealTail p (tweakAt t0 (q - 1)) (tweakAt t0 q) (region.drop (16 * (q - 1)))

/-- A region of L bytes, from tweak 0 on, in the inverse direction (R13, R14). -/
def decipherRegion (p : Equiv.Perm Block) (t0 : Block) (region : Bytes) : Bytes :=
  let q := region.length / 16
  if region.length % 16 = 0 then cipherBlocks p.symm q t0 region
  else cipherBlocks p.symm (q - 1) t0 region ++
    stealTail p.symm (tweakAt t0 q) (tweakAt t0 (q - 1)) (region.drop (16 * (q - 1)))

/-- Tweak 0 of a sector: always a forward use of the block transform under the tweak key (R8). -/
def sectorTweak (i : InputSet) : Block := Config.blockTransform i.tweakKey (seed i)

/-- The metadata bytes that the check mask selects, in ascending order (R17). -/
def selectedMeta (mask : Byte) (md : Bytes) : Bytes :=
  ((List.range 8).filter mask.getLsbD).map (byteAt md)

/-- The check word of a sector's plaintext: its data bytes, then the selected metadata bytes (R17). -/
def sectorCheck (f : FormatCode) (mask : Byte) (plain : Bytes) : BitVec 32 :=
  let data := plain.take (dataLength f)
  if metaLength f = 8 then check32 (data ++ selectedMeta mask (plain.drop (dataLength f))) else check32 data

/-- The zero test over every data and metadata byte (R18). -/
def zeroTest (plain : Bytes) : Bool := plain.all (· == 0)

/-- What a forward computation hands over, but for the three trailer values, which stand in the input set (R19). -/
structure ForwardResult where
  region : Bytes
  clear  : Bytes
  check  : BitVec 32
  zero   : Bool
deriving DecidableEq, Repr

/-- The forward computation of a sector of D + M plaintext bytes (R5, R11, R12, R17 to R19). -/
def forwardSector (i : InputSet) (plain : Bytes) : ForwardResult :=
  let l := cipheredLength i.metaCipher i.format
  { region := cipherRegion (Config.blockTransform i.dataKey) (sectorTweak i) (plain.take l),
    clear := plain.drop l,
    check := sectorCheck i.format i.checkMask plain,
    zero := zeroTest plain }

/-- The plaintext that an inverse computation recovers: the deciphered region, then the clear metadata as it came
(R13, R14, R19). Its check word is `sectorCheck` of it. -/
def inverseSector (i : InputSet) (region clear : Bytes) : Bytes :=
  decipherRegion (Config.blockTransform i.dataKey) (sectorTweak i) region ++ clear

/-- The supplied-seed form, forward, over a 64-byte region (R20). -/
def cipherWithSeed (tweakKey dataKey : Key) (seedBlock : Block) (region : Bytes) : Bytes :=
  cipherRegion (Config.blockTransform dataKey) (Config.blockTransform tweakKey seedBlock) region

/-- The supplied-seed form, inverse, over a 64-byte region (R20). -/
def decipherWithSeed (tweakKey dataKey : Key) (seedBlock : Block) (region : Bytes) : Bytes :=
  decipherRegion (Config.blockTransform dataKey) (Config.blockTransform tweakKey seedBlock) region

end Sys2Proof.Machine
end

