-- ==== Sys2Proof/Machine/Contexts.lean ====
section
/-! DEFINITION. The life of a context and what hangs on it: drains, the discard and the entry of lane outputs, the ending of
a transfer, and the taking and delivery of sectors (Chapter 4; R56 to R59, R107 to R109). -/

namespace Sys2Proof.Machine

/-! ### Drains (R56, R58, R59) -/

/-- A slot loses its keys and becomes EMPTY, its generation kept (R42, R48, R59). -/
def emptySlot (k : SlotIx) (s : State) : State :=
  putSlot k { s.slots[k] with state := .empty, dataKey := 0, tweakKey := 0, drainSet := [] } s

/-- A slot loses its keys and becomes FILLING, its generation kept (R40, R58). -/
def fillingSlot (k : SlotIx) (s : State) : State :=
  putSlot k { s.slots[k] with state := .filling, dataKey := 0, tweakKey := 0, drainSet := [] } s

/-- The drain of a slot is complete: DISCARD KEY empties the slot and answers OK (R59); REKEY SLOT goes to the fill, or
to RANDOM_FAILED when the source is FAILED (R58). -/
def completeDrain (k : SlotIx) (goal : DrainGoal) (s : State) : State :=
  match goal with
  | .discard => answer .ok [] (emptySlot k s)
  | .rekey entry g =>
    if s.random = .failed then answer .randomFailed [] (emptySlot k s)
    else { fillingSlot k s with du := some { task := .filling k entry g, silent := silentUnit s } }

/-- A context that enters REPORTING or FREE leaves the drain set it is in; the drain is complete when the set becomes
empty (R56). -/
def leaveDrain (t : Tag) (s : State) : State :=
  match s.du with
  | some ⟨.draining k goal _, _⟩ =>
    let r := s.slots[k]
    if r.drainSet.contains t then
      let rest := r.drainSet.filter (· != t)
      let s' := putSlot k { r with drainSet := rest } s
      if rest.isEmpty then completeDrain k goal s' else s'
    else s
  | _ => s

/-! ### Reporting and leaving ENDING (R80, R81) -/

/-- A context enters REPORTING: its COMPLETION is placed at the tail of the Report Queue, and it leaves its drain set
(R81, R56). -/
def enterReporting (t : Tag) (s : State) : State :=
  let c := { s.contexts[t] with state := .reporting, deadline := none }
  leaveDrain t { putContext t c s with rpq := s.rpq ++ [completionFrame t c] }

/-- A context becomes FREE without a COMPLETION, and leaves its drain set (R80, R84, R56). -/
def freeContext (t : Tag) (s : State) : State := leaveDrain t (putContext t Context.free s)

/-- A context in ENDING with no jobs in flight leaves ENDING (R80). -/
def leaveEnding (t : Tag) (s : State) : State :=
  if s.contexts[t].state = .ending ∧ s.contexts[t].jobs = 0 then
    if s.contexts[t].suppressed then freeContext t s else enterReporting t s
  else s

/-- A context in FLUSHING whose finished equals count ends DONE (R72, R75). -/
def finishTransfer (t : Tag) (s : State) : State :=
  if s.contexts[t].state = .flushing ∧ s.contexts[t].finished = s.contexts[t].count then
    enterReporting t (putContext t { s.contexts[t] with ending := some .done } s)
  else s

/-! ### Lane outputs (R107 to R109) -/

/-- The job of a lane. -/
def Lane.job : Lane → Option Job
  | .idle => none
  | .running j => some j
  | .holding j _ _ => some j

/-- The direction of a job. -/
def Job.direction (j : Job) : Direction :=
  match j.sector with
  | .plain _ => .write
  | .ciphered _ _ _ => .read

/-- A lane job is over: the slot's pin and the context's jobs in flight fall by one, the lane leaves its hold list, its
record is cleared and it becomes IDLE (R108, R109). -/
def releaseLane (l : LaneIx) (j : Job) (s : State) : State :=
  let s := putLane l .idle { s with moqHold := s.moqHold.erase l, fsqHold := s.fsqHold.erase l }
  let s := putSlot j.slot { s.slots[j.slot] with pins := s.slots[j.slot].pins - 1 } s
  putContext j.tag { s.contexts[j.tag] with jobs := s.contexts[j.tag].jobs - 1 } s

/-- A lane output is discarded (R109). -/
def discardOutput (l : LaneIx) (j : Job) (s : State) : State := leaveEnding j.tag (releaseLane l j s)

/-- A lane HOLDING a READ output of a context discards it (R79). -/
def discardHeldRead (t : Tag) (l : LaneIx) (s : State) : State :=
  match s.lanes[l] with
  | .holding j _ .fsq => if j.tag = t then discardOutput l j s else s
  | _ => s

/-- A lane HOLDING a WRITE output discards it (R111). -/
def discardHeldWrite (l : LaneIx) (s : State) : State :=
  match s.lanes[l] with
  | .holding j _ .moq => discardOutput l j s
  | _ => s

/-- The lanes in ascending order. -/
def allLanes : List LaneIx := List.finRange 4

/-- Every HOLDING READ output of a context is discarded (R79). -/
def discardHeldReads (t : Tag) (s : State) : State := allLanes.foldl (fun s l => discardHeldRead t l s) s

/-! ### Ending a transfer (R78 to R80) -/

/-- The head of an intake queue is a sector frame of a tag. -/
def headIsOf (t : Tag) (kindMatters : Bool) : List Queued → Bool
  | q :: _ => frameTag q.frame == t && (!kindMatters || q.frame.header.kind == Kind.sector)
  | [] => false

/-- A frame of the tag that waits at the front intake head is discarded silently (R79, R71). -/
def discardFrontHead (t : Tag) (s : State) : State :=
  if headIsOf t true s.fiq then popIntake .front s else s

/-- A judged frame of the tag that waits at the media intake head is discarded silently (R79, R74). -/
def discardMediaHead (t : Tag) (s : State) : State :=
  if s.verdict.isSome && headIsOf t false s.miq then popIntake .media s else s

/-- A context enters ENDING: its record takes what the cause writes, its waiting frames and held READ outputs are
discarded, and it leaves ENDING at once when it has no jobs in flight (R79, R80). -/
def enterEnding (t : Tag) (c : Context) (s : State) : State :=
  let s := putContext t { c with state := .ending, deadline := none } s
  leaveEnding t (discardHeldReads t (discardMediaHead t (discardFrontHead t s)))

/-- A context in ACTIVE or FLUSHING. -/
def ContextState.running : ContextState → Bool
  | .active | .flushing => true
  | .free | .ending | .reporting => false

/-- A cause of Table 4-5 reaches a context: in ACTIVE or FLUSHING it ends with the status; otherwise nothing (R78). -/
def endTransfer (t : Tag) (e : Ending) (fail : Option Nat) (s : State) : State :=
  if s.contexts[t].state.running then
    enterEnding t { s.contexts[t] with ending := some e, firstFail := fail } s
  else s

/-! ### Taking and delivering sectors (R71 to R76) -/

/-- The idle deadline set or restarted now: the stored limit ahead, or absent when the limit is 0 (R76). -/
def idleDeadline (s : State) : Option Time :=
  if s.limits.idle = 0 then none else some (timeAfter s.time (100 * s.limits.idle))

/-- A context takes a sector: taken rises, a READ marks the index, the deadline restarts; at count it becomes FLUSHING
without a deadline (R71, R74). `jobs` is 1 for a lane job and 0 for the bypass. -/
def Context.take (deadline : Option Time) (index jobs : Nat) (c : Context) : Context :=
  let marks := match c.direction with
    | .write => c.marks
    | .read => c.marks ||| (1#256 <<< index)
  if c.taken + 1 = c.count then
    { c with taken := c.taken + 1, jobs := c.jobs + jobs, marks := marks, deadline := none, state := .flushing }
  else { c with taken := c.taken + 1, jobs := c.jobs + jobs, marks := marks, deadline := deadline }

/-- The read status count that a status raises (R75). -/
def ReadCounts.raise (r : ReadStatus) (n : ReadCounts) : ReadCounts :=
  match r with
  | .good => n
  | .checkFail => { n with checkFail := n.checkFail + 1 }
  | .stale => { n with stale := n.stale + 1 }
  | .zero => { n with zero := n.zero + 1 }
  | .void => { n with void := n.void + 1 }
  | .mismatch => { n with mismatch := n.mismatch + 1 }

/-- The flags of a delivered read sector: STALE_READ and CHECK_FAIL_READ (R136). -/
def deliveryFlags (r : ReadStatus) (s : State) : State :=
  raiseIf (r = .checkFail) Flag.checkFailRead (raiseIf (r = .stale) Flag.staleRead s)

/-- A read sector enters the FSQ: the context counts it and the flags are set (R75, R136). -/
def deliver (t : Tag) (r : ReadStatus) (f : Frame) (s : State) : State :=
  let c := s.contexts[t]
  let s := putContext t { c with finished := c.finished + 1, counts := c.counts.raise r } s
  deliveryFlags r { s with fsq := s.fsq ++ [f] }

/-- A write output enters the MOQ: finished rises (R72, R124). -/
def emit (t : Tag) (f : Frame) (s : State) : State :=
  let c := s.contexts[t]
  { putContext t { c with finished := c.finished + 1 } s with moq := s.moq ++ [f] }

/-- The read status that a lane output's header carries: CHECK_FAIL or GOOD (R106, Table 11-6). -/
def outputStatus (f : Frame) : ReadStatus :=
  if f.header.form.toNat / 8 % 8 = 1 then .checkFail else .good

/-- A lane output enters its target queue (R108). -/
def enterOutput (l : LaneIx) (j : Job) (f : Frame) (target : SectorQueue) (s : State) : State :=
  let s := releaseLane l j s
  let s := match target with
    | .moq => emit j.tag f s
    | .fsq => deliver j.tag (outputStatus f) f s
  leaveEnding j.tag (finishTransfer j.tag s)

/-- A queue of frames has room for a newcomer: fewer than 16 frames and an empty hold list (R107, R133). -/
def hasRoom (target : SectorQueue) (s : State) : Bool :=
  match target with
  | .moq => decide (s.moq.length < Config.queueCapacity) && s.moqHold.isEmpty
  | .fsq => decide (s.fsq.length < Config.queueCapacity) && s.fsqHold.isEmpty

/-- A completing lane finds no room: it becomes HOLDING, last in the hold list (R107). -/
def holdOutput (l : LaneIx) (j : Job) (f : Frame) (target : SectorQueue) (s : State) : State :=
  let s := putLane l (.holding j f target) s
  match target with
  | .moq => { s with moqHold := s.moqHold ++ [l] }
  | .fsq => { s with fsqHold := s.fsqHold ++ [l] }

/-- An output is offered to its target queue (R107). -/
def offerOutput (l : LaneIx) (j : Job) (f : Frame) (target : SectorQueue) (s : State) : State :=
  if hasRoom target s then enterOutput l j f target s else holdOutput l j f target s

end Sys2Proof.Machine
end

