-- ==== Sys2Proof/Machine/Intake.lean ====
section
/-! DEFINITION. The two intake heads: the OPEN checks and the write sector checks at the front head (R65 to R70), the
judging of read frames and the bypass at the media head (R73, R127 to R133), and the arrival of frames (R87 to R91). -/

namespace Sys2Proof.Machine

/-! ### OPEN at the front intake head -/

/-- Checks 4a to 4c of an OPEN for one range (R66, R34, R43). -/
def rangeCheck (slots : Vector SlotRecord 16) (d : Direction) (r : RangeRecord) : Option Ending :=
  if (d = .write ∧ r.writeLock) ∨ (d = .read ∧ r.readLock) then some .locked
  else match r.slot with
    | none => some .noKey
    | some k =>
      match slots[k].state with
      | .empty | .filling => some .noKey
      | .draining => some .keyChanging
      | .ready => none

/-- The status with which an OPEN is refused, if it is: the first check that fails (R66). -/
def openRefusal (q : Queued) (s : State) : Option Ending :=
  let f := q.frame
  if q.damaged then some .damaged
  else if frameFormat f > 3 then some .badFormat
  else if frameLba f + frameCount f > s.limits.ceiling then some .outOfRange
  else (touched s.ranges (frameLba f) (frameCount f)).findSome?
    (fun k => rangeCheck s.slots (frameDirection f) s.ranges[k])

/-- The record that an OPEN gives its context: the fields it carries, the counters zero (R65, R67). A format code above 3
is recorded as 0. -/
def openedContext (f : Frame) : Context :=
  { Context.free with
    direction := frameDirection f, start := frameLba f, count := frameCount f,
    format := if frameFormat f > 3 then 0 else Fin.ofNat 4 (frameFormat f) }

/-- An OPEN taken for a FREE tag: ACTIVE with its idle deadline (R65), or REPORTING with the refusal (R67). -/
def takeOpen (q : Queued) (s : State) : State :=
  let t := frameTag q.frame
  match openRefusal q s with
  | none => putContext t { openedContext q.frame with state := .active, deadline := idleDeadline s } s
  | some e => enterReporting t (putContext t { openedContext q.frame with ending := some e } s)

/-- An OPEN whose tag is not FREE is dropped: TAG_BUSY, and an ACTIVE or FLUSHING context ends TAG_REUSE (R68). -/
def dropOpen (t : Tag) (s : State) : State := endTransfer t .tagReuse none (raise Flag.tagBusy s)

/-! ### Write sectors at the front intake head -/

/-- The ending of a write sector that fails a check of R70, if it fails one. -/
def writeSectorFault (q : Queued) (c : Context) : Option Ending :=
  let f := q.frame
  if frameIndex f ≠ c.taken ∨ frameLba f ≠ c.start + frameIndex f then some .sequence
  else if payloadLength f ≠ sectorLength c.format ∨ frameFormat f ≠ c.format.val then some .badLength
  else if q.damaged then some .damaged
  else none

/-- The front head frame is a candidate for a lane: a SECTOR that passes R70 for an ACTIVE WRITE context (R101). -/
def frontCandidate (q : Queued) (s : State) : Bool :=
  let c := s.contexts[frameTag q.frame]
  q.frame.header.kind == Kind.sector && c.state == .active && c.direction == .write &&
    (writeSectorFault q c).isNone

/-- The frame at the front intake head, which is no candidate for a lane, is disposed of (R65 to R70). A frame that is neither
an OPEN nor a SECTOR does not arise there (R87); it is taken out (log entry 15). -/
def disposeFront (q : Queued) (s : State) : State :=
  let t := frameTag q.frame
  let c := s.contexts[t]
  let rest := popIntake .front s
  if q.frame.header.kind = Kind.opening then
    if c.state = .free then takeOpen q rest else dropOpen t rest
  else match c.state, c.direction with
    | .ending, _ | .reporting, _ => rest
    | .free, _ | .flushing, _ | .active, .read => raise Flag.orphanSector rest
    | .active, .write =>
      match writeSectorFault q c with
      | some e => endTransfer t e (some c.taken) rest
      | none => rest

/-- The front intake head takes frames one at a time until it is empty or holds a candidate. Each turn takes at least
one frame out, so the depth bounds the turns. -/
def frontHead : Nat → State → State
  | 0, s => s
  | n + 1, s =>
    match s.fiq with
    | [] => s
    | q :: _ => if frontCandidate q s then s else frontHead n (disposeFront q s)

/-! ### Read frames at the media intake head -/

/-- A read frame belongs to a transfer: its context is ACTIVE and READ, its index below count and not yet marked (R73,
orders 1 to 3). -/
def belongsToRead (q : Queued) (s : State) : Bool :=
  let c := s.contexts[frameTag q.frame]
  c.state == .active && c.direction == .read && decide (frameIndex q.frame < c.count) &&
    !c.marks.getLsbD (frameIndex q.frame)

/-- The tests of R128 to R131 on a frame that belongs to an ACTIVE READ context. -/
def judge (f : Frame) (s : State) : Verdict :=
  let c := s.contexts[frameTag f]
  let expected := c.start + frameIndex f
  let r := lookup s.ranges expected
  let range := s.ranges[r]
  let kind := f.header.kind
  let trailer := trailerOfBytes (f.payload.drop (if kind = Kind.zero then 0 else sectorLength c.format))
  let generation := range.slot.map (fun k => s.slots[k].generation)
  if frameLba f ≠ expected ∨ (kind = Kind.sector ∧ payloadLength f ≠ sectorLength c.format + 8) ∨
      (kind = Kind.zero ∧ payloadLength f ≠ 8) ∨
      (kind ≠ Kind.void ∧ trailer.form ≠ formatByte range.metaCipher c.format) then .mismatch
  else if kind = Kind.void then .void
  else if trailer.range ≠ BitVec.ofNat 8 r.val ∨ generation ≠ some trailer.stamp then .stale
  else if kind = Kind.zero then .zero
  else .decipher

/-- The status of the bypass sector of a verdict; DECIPHER has none (R133). -/
def bypassStatus : Verdict → Option ReadStatus
  | .mismatch => some .mismatch
  | .void => some .void
  | .stale => some .stale
  | .zero => some .zero
  | .decipher => none

/-- A bypass sector enters the FSQ: the frame is taken and its zero-filled sector delivered in one event (R74, R75,
R132, R133). -/
def takeBypass (q : Queued) (r : ReadStatus) (s : State) : State :=
  let t := frameTag q.frame
  let s := popIntake .media s
  let c := s.contexts[t]
  let s := putContext t (c.take (idleDeadline s) (frameIndex q.frame) 0) s
  let f := readFrame t c (frameIndex q.frame) r (zeroBytes (sectorLength c.format))
  finishTransfer t (deliver t r f s)

/-- A frame that R73 finds to belong to its transfer is judged; its bypass sector is offered at the same event (R127,
R133). -/
def judgeHead (q : Queued) (s : State) : State :=
  let v := judge q.frame s
  match bypassStatus v with
  | none => { s with verdict := some v }
  | some r => if hasRoom .fsq s then takeBypass q r s else { s with verdict := some v }

/-- The frame at the media intake head, not yet judged, is disposed of or judged (R73). -/
def disposeMedia (q : Queued) (s : State) : State :=
  let t := frameTag q.frame
  let c := s.contexts[t]
  let i := frameIndex q.frame
  let rest := popIntake .media s
  match c.state, c.direction with
  | .ending, _ | .reporting, _ => rest
  | .free, _ | .flushing, _ | .active, .write => raise Flag.orphanSector rest
  | .active, .read =>
    if i ≥ c.count then raise Flag.orphanSector rest
    else if c.marks.getLsbD i then raise Flag.duplicateSector rest
    else if q.damaged then endTransfer t .damaged (some i) rest
    else judgeHead q s

/-- The media intake head takes frames one at a time until it is empty or holds a judged frame that waits. -/
def mediaHead : Nat → State → State
  | 0, s => s
  | n + 1, s =>
    if s.verdict.isSome then s
    else match s.miq with
      | [] => s
      | q :: _ => mediaHead n (disposeMedia q s)

/-- The two heads take the frames that have reached them: the front head, then the media head (log entry 10). -/
def heads (s : State) : State :=
  let s := frontHead s.fiq.length s
  mediaHead s.miq.length s

/-- The end of an event that may have moved a head: the heads take their frames, then the transmitters choose
(log entries 10 and 11). -/
def settle (s : State) : State := transmit (heads s)

/-- A frame has come to an intake head and has not been taken yet: the front head is no candidate, or the media head is not
judged. It is so only after a link loss, whose event takes no frame but the one that waited at a head (R98, R152, R154). -/
def headsWait (s : State) : Bool :=
  (match s.fiq with | q :: _ => !frontCandidate q s | [] => false) || (s.verdict.isNone && !s.miq.isEmpty)

/-- The heads take the frames that wait for them, in events of their own that come before the next event (R69, R73, R84;
log entry 10). -/
def serveHeads (s : State) : State := if headsWait s then settle s else s

/-- One event outside the reset input, after the heads have taken the frames that wait for them (R156; log entry 10). -/
def atEvent (f : State → State) (s : State) : Host.Outcome State Fault Refusal :=
  .next (if s.inReset then s else f (serveHeads s))

/-! ### Arrival (R87 to R91, R95, R151) -/

/-- A HOLD or GO of the partner is acted on by the port (R95). -/
def hearFlow (p : PortId) (f : Flow) (s : State) : State :=
  putPort p { s.port p with peerHold := match f with | .hold => true | .go => false } s

/-- What an arriving frame of a kind is for a port: Table 10-1. -/
inductive ArrivalClass where
  | intake
  | directive
  | flow (f : Flow)
  | wrongKind
deriving DecidableEq, Repr

/-- Step 2 of R87: the kind and the link, and the tag of a transfer frame (R151, Table 10-1). -/
def arrivalClass (p : PortId) (h : Header) : ArrivalClass :=
  let transfer := if h.tag.toNat > 63 then ArrivalClass.wrongKind else .intake
  if h.kind = Kind.hold then .flow .hold
  else if h.kind = Kind.go then .flow .go
  else if h.kind = Kind.sector then transfer
  else match p with
    | .front =>
      if h.kind = Kind.opening then transfer
      else if h.kind = Kind.directive then .directive else .wrongKind
    | .media => if h.kind = Kind.zero ∨ h.kind = Kind.void then transfer else .wrongKind

/-- The overrun flag of a port's intake queue (R90). -/
def overrunFlag : PortId → Fin 15
  | .front => Flag.overrunFront
  | .media => Flag.overrunMedia

/-- A transfer frame reaches its intake queue: it enters with its damage mark, or, at a full queue, is dropped and an
open context of its tag ends OVERRUN (R87, R89, R90). -/
def enterIntake (p : PortId) (f : Frame) (s : State) : State :=
  if (s.intake p).length ≥ Config.queueCapacity then
    endTransfer (frameTag f) .overrun (if f.header.kind = Kind.opening then none else some (frameIndex f))
      (raise (overrunFlag p) s)
  else putIntake p (s.intake p ++ [{ frame := f, damaged := payloadDamaged f }]) s

/-- A DIRECTIVE reaches the Directive Queue, or is lost at a full one (R91). -/
def enterDirective (f : Frame) (s : State) : State :=
  if s.drq.length ≥ Config.drqCapacity then raise Flag.directiveLost s
  else { s with drq := s.drq ++ [{ frame := f, damaged := payloadDamaged f, executed := false }] }

/-- A frame arrives at an UP port (R87). -/
def receive (p : PortId) (f : Frame) (s : State) : State :=
  if headerGood f then
    match arrivalClass p f.header with
    | .wrongKind => raise Flag.wrongKind s
    | .flow x => hearFlow p x s
    | .directive => enterDirective f s
    | .intake => enterIntake p f s
  else raise Flag.frameDamaged s

end Sys2Proof.Machine
end

