-- ==== Sys2Proof/Machine/Operands.lean ====
section
/-! DEFINITION. The operands of directives: which command executes a DIRECTIVE, the payload length of each code, the fields
of a payload (R140, R160, Table 11-4), and the opening checks common to all directives (R138, R140). -/

namespace Sys2Proof.Machine

/-- The directive commands of the table: the fourteen directives, with QUERY by view, and the unknown code. -/
inductive DirectiveRow where
  | defineRange
  | disableRange
  | setLocks
  | setWrappingKey
  | clearWrappingKey
  | generateKey
  | installKey
  | rekeySlot
  | discardKey
  | abandonTransfer
  | setLimits
  | queryEngine
  | queryRange
  | querySlot
  | queryContext
  | queryLimits
  | clearEvents
  | resetEngine
  | unknown
deriving DecidableEq, Repr

/-- The view that a QUERY payload selects (Table 11-4). A QUERY that carries no view selector, or one that names no
view, is answered BAD_PARAM; the command that answers it is UNKNOWN_DIRECTIVE (log entry 13). -/
def queryRow (payload : Bytes) : DirectiveRow :=
  match payload with
  | _ :: v :: _ =>
    match v.toNat with
    | 0 => .queryEngine
    | 1 => .queryRange
    | 2 => .querySlot
    | 3 => .queryContext
    | 4 => .queryLimits
    | _ => .unknown
  | _ => .unknown

/-- The command that executes a DIRECTIVE, by its code (Tables 9-3 and 11-4). -/
def directiveRow (f : Frame) : DirectiveRow :=
  match (directiveCode f).toNat with
  | 1 => .defineRange
  | 2 => .disableRange
  | 3 => .setLocks
  | 4 => .setWrappingKey
  | 5 => .clearWrappingKey
  | 6 => .generateKey
  | 7 => .installKey
  | 8 => .rekeySlot
  | 9 => .discardKey
  | 10 => .abandonTransfer
  | 11 => .setLimits
  | 12 => queryRow f.payload
  | 13 => .clearEvents
  | 14 => .resetEngine
  | _ => .unknown

/-- The payload length of a directive (Table 11-4); no length suits an unknown one. -/
def directiveLength : DirectiveRow → Option Nat
  | .defineRange => some 24
  | .disableRange => some 2
  | .setLocks => some 3
  | .setWrappingKey => some 66
  | .clearWrappingKey => some 2
  | .generateKey => some 5
  | .installKey => some 99
  | .rekeySlot => some 6
  | .discardKey => some 3
  | .abandonTransfer => some 2
  | .setLimits => some 18
  | .queryEngine | .queryRange | .querySlot | .queryContext | .queryLimits => some 3
  | .clearEvents => some 3
  | .resetEngine => some 1
  | .unknown => none

/-- The Directive Unit, IDLE, begins the first unexecuted entry of the Directive Queue when that entry is a directive of
the command's row: the checks of R140, then the directive's catalogue entry, given the payload. In every other state the
event does not arise and nothing changes (log entry 2). -/
def beginDirective (row : DirectiveRow) (body : Bytes → State → State) (s : State) : State :=
  match s.du, firstUnexecuted s.drq with
  | none, some e =>
    if directiveRow e.frame = row then
      if e.damaged then answer .damaged [] s
      else if directiveLength row ≠ some (payloadLength e.frame) then answer .badParam [] s
      else body e.frame.payload s
    else s
  | _, _ => s

/-- Byte `i` of a payload as an index below `n`; `none` is the BAD_PARAM case (R160). -/
def indexParam (n : Nat) [NeZero n] (p : Bytes) (i : Nat) : Option (Fin n) :=
  let v := (byteAt p i).toNat
  if v < n then some (Fin.ofNat n v) else none

/-- The key slot byte of DEFINE RANGE: FFh is absent, 16 to FEh is refused (R160). -/
def slotParam (p : Bytes) (i : Nat) : Option (Option SlotIx) :=
  if byteAt p i = 0xFF#8 then some none else (indexParam 16 p i).map some

/-- Drain modes (R55, R160). -/
inductive DrainMode where
  | wait
  | cut
deriving DecidableEq, Repr

/-- A drain mode byte: 0 is WAIT, 1 is CUT, any other value is refused (R160). -/
def modeParam (p : Bytes) (i : Nat) : Option DrainMode :=
  match (byteAt p i).toNat with
  | 0 => some .wait
  | 1 => some .cut
  | _ => none

/-- A generation (Table 11-4). -/
def generationParam (p : Bytes) (i : Nat) : Generation := BitVec.ofNat 16 (field p i 2)

/-- A flag mask: bit n for flag n, bit 15 ignored (R160). -/
def maskParam (p : Bytes) (i : Nat) : BitVec 15 := BitVec.ofNat 15 (field p i 2)

/-- The record that a DEFINE RANGE carries, enabled (R27, Table 11-4). -/
def rangeParam (slot : Option SlotIx) (p : Bytes) : RangeRecord :=
  let a := byteAt p 3
  { enabled := true, start := field p 5 5, length := field p 10 6, slot := slot,
    readLock := a.getLsbD 0, writeLock := a.getLsbD 1, metaCipher := a.getLsbD 2, zeroMark := a.getLsbD 3,
    linkLock := a.getLsbD 4, checkMask := byteAt p 4, tweakBase := BitVec.ofNat 64 (field p 16 8) }

/-- The high mark as stored: brought into 1 to 16 (R94). -/
def clampHigh (h : Nat) : Nat := if h = 0 then 1 else if h > 16 then 16 else h

/-- The low mark as stored, below the stored high mark (R94). -/
def clampLow (storedHigh lo : Nat) : Nat := if lo < storedHigh then lo else storedHigh - 1

/-- The limits that a SET LIMITS carries, clamped (R94, R142, Table 11-4: the LIMITS view layout from byte 1). -/
def limitsParam (p : Bytes) : Limits :=
  let fh := clampHigh (byteAt p 7).toNat
  let mh := clampHigh (byteAt p 9).toNat
  let d := field p 13 2
  { ceiling := field p 1 6, fiqHigh := fh, fiqLow := clampLow fh (byteAt p 8).toNat, miqHigh := mh,
    miqLow := clampLow mh (byteAt p 10).toNat, idle := field p 11 2, drain := if d = 0 then 1 else d,
    selector := (byteAt p 15).toNat }

end Sys2Proof.Machine
end

