-- ==== Sys2Proof/Machine/Views.lean ====
section
/-! DEFINITION. The five views of QUERY, byte by byte (R144, R161, Table 11-8). -/

namespace Sys2Proof.Machine

/-- A number as one byte. -/
def oneByte (n : Nat) : Byte := BitVec.ofNat 8 n

/-- The byte of a port in the ENGINE view. -/
def portByte (p : Port) : Byte :=
  oneByte (bitValue (p.link == .up) 0 + bitValue p.held 1 + bitValue p.peerHold 2 +
    8 * (match p.pendingFlow with | none => 0 | some .hold => 1 | some .go => 2))

/-- The code of the Random Source's state. -/
def randomCode : RandomState → Nat
  | .warming => 0
  | .ready => 1
  | .failed => 2

/-- The two-bit code of a lane's state. -/
def laneCode : Lane → Nat
  | .idle => 0
  | .running _ => 1
  | .holding _ _ _ => 2

/-- The ENGINE view, 15 bytes. -/
def engineView (s : State) : Bytes :=
  [portByte s.front, portByte s.media, oneByte (randomCode s.random), oneByte s.fiq.length, oneByte s.miq.length,
    oneByte s.drq.length, oneByte s.moq.length, oneByte s.fsq.length, oneByte s.rpq.length,
    oneByte (laneCode s.lanes[0] + 4 * laneCode s.lanes[1] + 16 * laneCode s.lanes[2] + 64 * laneCode s.lanes[3]),
    oneByte (bitValue (s.laneTurn == .media) 0 + bitValue s.events.attention 1)] ++
    leBytes 2 s.events.flags.toNat ++ leBytes 2 s.events.mask.toNat

/-- The attribute byte of a range record, with bit 7 enabled. -/
def attributeByte (r : RangeRecord) : Byte :=
  oneByte (bitValue r.readLock 0 + bitValue r.writeLock 1 + bitValue r.metaCipher 2 + bitValue r.zeroMark 3 +
    bitValue r.linkLock 4 + bitValue r.enabled 7)

/-- The RANGE view, 23 bytes. -/
def rangeView (k : RangeIx) (r : RangeRecord) : Bytes :=
  [oneByte k.val, (match r.slot with | none => 0xFF#8 | some n => oneByte n.val), attributeByte r, r.checkMask] ++
    leBytes 5 r.start ++ leBytes 6 r.length ++ leBytes 8 r.tweakBase.toNat

/-- The code of a slot state. -/
def slotStateCode : SlotState → Nat
  | .empty => 0
  | .filling => 1
  | .ready => 2
  | .draining => 3

/-- The SLOT view, 7 bytes; it carries no key byte. -/
def slotView (k : SlotIx) (s : State) : Bytes :=
  let r := s.slots[k]
  [oneByte k.val, oneByte (slotStateCode r.state)] ++ leBytes 2 r.generation.toNat ++
    [oneByte r.pins, oneByte (referenceCount s.ranges k), oneByte r.drainSet.length]

/-- The code of a context state. -/
def contextStateCode : ContextState → Nat
  | .free => 0
  | .active => 1
  | .flushing => 2
  | .ending => 3
  | .reporting => 4

/-- The CONTEXT view, 64 bytes; the idle deadline as time remaining. -/
def contextView (t : Tag) (now : Time) (c : Context) : Bytes :=
  [oneByte t.val, oneByte (contextStateCode c.state), oneByte (directionCode c.direction), oneByte c.format.val] ++
    leBytes 5 c.start ++ [oneByte (c.count - 1)] ++ leBytes 2 c.taken ++ leBytes 2 c.finished ++
    [oneByte c.jobs, (match c.ending with | none => 0xFF#8 | some e => oneByte (endingCode e)),
      oneByte (bitValue c.firstFail.isSome 0 + bitValue c.deadline.isSome 1 + bitValue c.suppressed 2),
      oneByte (c.firstFail.getD 0)] ++
    leBytes 2 c.counts.stale ++ leBytes 2 c.counts.checkFail ++ leBytes 2 c.counts.zero ++ leBytes 2 c.counts.void ++
    leBytes 2 c.counts.mismatch ++
    leBytes 4 (match c.deadline with | none => 0 | some d => timeRemaining now d) ++ leBytes 32 c.marks.toNat

/-- The LIMITS view, 17 bytes. -/
def limitsView (l : Limits) (mask : BitVec 15) : Bytes :=
  leBytes 6 l.ceiling ++ [oneByte l.fiqHigh, oneByte l.fiqLow, oneByte l.miqHigh, oneByte l.miqLow] ++
    leBytes 2 l.idle ++ leBytes 2 l.drain ++ [oneByte l.selector] ++ leBytes 2 mask.toNat

end Sys2Proof.Machine
end

