-- ==== Sys2Proof/Machine/Directives.lean ====
section
/-! DEFINITION. ABANDON TRANSFER, SET LIMITS, QUERY, CLEAR EVENTS, RESET ENGINE and the unknown directive
(R77, R140 to R148). -/

namespace Sys2Proof.Machine

/-- The catalogue entry of ABANDON TRANSFER (R77). -/
def abandonTransferBody (p : Bytes) (s : State) : State :=
  match indexParam 64 p 1 with
  | some t =>
    if s.contexts[t].state.running then heads (answer .ok [] (endTransfer t .abandoned none s))
    else answer .notOpen [] s
  | none => answer .badParam [] s

/-- Check 2 of SET LIMITS: an enabled range 1 to 15 ends beyond the new ceiling (R142). -/
def rangeBeyond (ceiling : Nat) (rt : Vector RangeRecord 16) : Bool :=
  rangeIndices.any (fun k => k != 0 && rt[k].enabled && decide (rt[k].stop > ceiling))

/-- Check 3 of SET LIMITS: an open context's span ends beyond the new ceiling (R142). -/
def spanBeyond (ceiling : Nat) (cs : Vector Context 64) : Bool :=
  allTags.any (fun t => cs[t].state.isOpen && decide (cs[t].start + cs[t].count > ceiling))

/-- The catalogue entry of SET LIMITS: every value is stored in one event, and the new marks are tested against both
intake queues (R142, R143). -/
def setLimitsBody (p : Bytes) (s : State) : State :=
  let l := limitsParam p
  let mask := maskParam p 16
  if l.ceiling = 0 ∨ l.ceiling > Config.maxCeiling ∨ l.selector > 7 then answer .badParam [] s
  else if rangeBeyond l.ceiling s.ranges || spanBeyond l.ceiling s.contexts then answer .rangeConflict [] s
  else
    answer .ok (limitsView l mask)
      (testMarks .media (testMarks .front { s with limits := l, events := s.events.store mask }))

/-- The catalogue entry of QUERY, ENGINE view (R144). -/
def queryEngineBody (_p : Bytes) (s : State) : State := answer .ok (0 :: engineView s) s

/-- The catalogue entry of QUERY, RANGE view (R144). -/
def queryRangeBody (p : Bytes) (s : State) : State :=
  match indexParam 16 p 2 with
  | some k => answer .ok (1 :: rangeView k s.ranges[k]) s
  | none => answer .badParam [] s

/-- The catalogue entry of QUERY, SLOT view (R144). -/
def querySlotBody (p : Bytes) (s : State) : State :=
  match indexParam 16 p 2 with
  | some k => answer .ok (2 :: slotView k s) s
  | none => answer .badParam [] s

/-- The catalogue entry of QUERY, CONTEXT view (R144). -/
def queryContextBody (p : Bytes) (s : State) : State :=
  match indexParam 64 p 2 with
  | some t => answer .ok (3 :: contextView t s.time s.contexts[t]) s
  | none => answer .badParam [] s

/-- The catalogue entry of QUERY, LIMITS view (R144). -/
def queryLimitsBody (_p : Bytes) (s : State) : State := answer .ok (4 :: limitsView s.limits s.events.mask) s

/-- The catalogue entry of CLEAR EVENTS: the flags before the clearing are the data (R146). -/
def clearEventsBody (p : Bytes) (s : State) : State :=
  answer .ok (leBytes 2 s.events.flags.toNat) { s with events := s.events.clear (maskParam p 1) }

/-- A port after RESET ENGINE: its link as before, its flow state released; a flow frame in transmission is sent to its
end; a GO is pending when the partner was last told HOLD (R99, R148), and what it was last told stays (R99). The last frame
sent on the link, a field of the model's own, stays: DESIGN CHOICE (log entry 20). -/
def Port.engineReset (x : Port) : Port :=
  { x with
    held := false, peerHold := false,
    pendingFlow := if x.told = some .hold then some .go else none,
    sending := match x.sending with | some (.flow f) => some (.flow f) | _ => none }

/-- Every block at its power-on value, except as R148 lists: the Directive Queue keeps the entry of the RESET ENGINE
itself, and its RESPONSE is the first frame of the emptied Report Queue. -/
def resetEngineBody (_p : Bytes) (s : State) : State :=
  answer .ok []
    { State.reset with
      time := s.time, front := s.front.engineReset, media := s.media.engineReset,
      drq := (firstUnexecuted s.drq).toList, events := s.events.engineReset, pending := s.pending }

/-- A directive whose code is not one of the fourteen: BAD_PARAM without effect (R140). -/
def unknownBody (_p : Bytes) (s : State) : State := answer .badParam [] s

/-- ABANDON_TRANSFER (R77). -/
def execAbandonTransfer (s : State) : Host.Outcome State Fault Refusal :=
  atEvent (fun s => transmit (beginDirective .abandonTransfer abandonTransferBody s)) s

/-- SET_LIMITS (R142). -/
def execSetLimits (s : State) : Host.Outcome State Fault Refusal :=
  atEvent (fun s => transmit (beginDirective .setLimits setLimitsBody s)) s

/-- QUERY_ENGINE (R144). -/
def execQueryEngine (s : State) : Host.Outcome State Fault Refusal :=
  atEvent (fun s => transmit (beginDirective .queryEngine queryEngineBody s)) s

/-- QUERY_RANGE (R144). -/
def execQueryRange (s : State) : Host.Outcome State Fault Refusal :=
  atEvent (fun s => transmit (beginDirective .queryRange queryRangeBody s)) s

/-- QUERY_SLOT (R144). -/
def execQuerySlot (s : State) : Host.Outcome State Fault Refusal :=
  atEvent (fun s => transmit (beginDirective .querySlot querySlotBody s)) s

/-- QUERY_CONTEXT (R144). -/
def execQueryContext (s : State) : Host.Outcome State Fault Refusal :=
  atEvent (fun s => transmit (beginDirective .queryContext queryContextBody s)) s

/-- QUERY_LIMITS (R144). -/
def execQueryLimits (s : State) : Host.Outcome State Fault Refusal :=
  atEvent (fun s => transmit (beginDirective .queryLimits queryLimitsBody s)) s

/-- CLEAR_EVENTS (R146). -/
def execClearEvents (s : State) : Host.Outcome State Fault Refusal :=
  atEvent (fun s => transmit (beginDirective .clearEvents clearEventsBody s)) s

/-- RESET_ENGINE (R148). -/
def execResetEngine (s : State) : Host.Outcome State Fault Refusal :=
  atEvent (fun s => transmit (beginDirective .resetEngine resetEngineBody s)) s

/-- UNKNOWN_DIRECTIVE (R140). -/
def execUnknownDirective (s : State) : Host.Outcome State Fault Refusal :=
  atEvent (fun s => transmit (beginDirective .unknown unknownBody s)) s

end Sys2Proof.Machine
end

