-- ==== Sys2Proof/Machine/Records.lean ====
section
/-! DEFINITION. The wrapped key record: its making and its opening (R49 to R52). -/

namespace Sys2Proof.Machine

/-- The header of a record: version 1, the generation, the nonce (Table 3-3). -/
def recordHeader (g : Generation) (nonce : Nonce) : Bytes :=
  [1] ++ leBytes 2 g.toNat ++ leBytes 13 nonce.toNat

/-- The chain value after each of `n` blocks of a byte sequence, under half B (R51). -/
def chainBlocks (p : Equiv.Perm Block) : Nat → Block → Bytes → Block
  | 0, c, _ => c
  | n + 1, c, bs => chainBlocks p n (p (c ^^^ blockOfBytes bs)) (bs.drop 16)

/-- The check block of the 80 bytes of header and ciphered keys (R51). -/
def checkBlock (w : WrappingKey) (bs : Bytes) : Bytes :=
  bytesOfBlock (chainBlocks (Config.blockTransform w.halfB) 5 0 bs)

/-- The 80 bytes of header and ciphered keys (R50): the seed is the header, the tweak key half B, the data key half A. -/
def recordBody (w : WrappingKey) (g : Generation) (nonce : Nonce) (dataKey tweakKey : Key) : Bytes :=
  let header := recordHeader g nonce
  header ++ cipherWithSeed w.halfB w.halfA (blockOfBytes header) (bytesOfKey dataKey ++ bytesOfKey tweakKey)

/-- The 96-byte wrapped key record (R49, Table 11-9). -/
def makeRecord (w : WrappingKey) (g : Generation) (nonce : Nonce) (dataKey tweakKey : Key) : Bytes :=
  let body := recordBody w g nonce dataKey tweakKey
  body ++ checkBlock w body

/-- Step 1 of the opening: the record version (R52). -/
def recordVersion (record : Bytes) : Byte := byteAt record 0

/-- Steps 2 and 3 of the opening: the check block, then the data key, the tweak key and the generation;
`none` is a check block mismatch (R52). -/
def openRecord (w : WrappingKey) (record : Bytes) : Option (Key × Key × Generation) :=
  if checkBlock w (record.take 80) = slice record 80 16 then
    let keys := decipherWithSeed w.halfB w.halfA (blockOfBytes record) (slice record 16 64)
    some (keyOfBytes keys, keyOfBytes (keys.drop 32), BitVec.ofNat 16 (field record 1 2))
  else none

end Sys2Proof.Machine
end

