-- ==== Sys2Proof/Machine/Keys.lean ====
section
/-! DEFINITION. Keys: the wrapping key directives, the four key directives and the ends of what they wait for
(R44 to R60). -/

namespace Sys2Proof.Machine

/-! ### Wrapping keys (R44, R45) -/

/-- The catalogue entry of SET WRAPPING KEY (R44). -/
def setWrappingKeyBody (p : Bytes) (s : State) : State :=
  match indexParam 4 p 1 with
  | some e =>
    answer .ok [] (putEntry e (some { halfA := keyOfBytes (slice p 2 32), halfB := keyOfBytes (slice p 34 32) }) s)
  | none => answer .badParam [] s

/-- The catalogue entry of CLEAR WRAPPING KEY (R45). -/
def clearWrappingKeyBody (p : Bytes) (s : State) : State :=
  match indexParam 4 p 1 with
  | some e => answer .ok [] (putEntry e none s)
  | none => answer .badParam [] s

/-! ### Filling a slot (R48, R53, R54, R58) -/

/-- A filling fails or is abandoned: the slot becomes EMPTY with its generation, and the response has the result and no
record (R46, R48, R54). -/
def failFilling (k : SlotIx) (r : Result) (s : State) : State := answer r [] (emptySlot k s)

/-- A slot becomes READY with new keys and a generation. Its pin count, zero in FILLING (R41), is not written
(log entry 19). -/
def readySlot (k : SlotIx) (dataKey tweakKey : Key) (g : Generation) (s : State) : State :=
  putSlot k { s.slots[k] with state := .ready, dataKey := dataKey, tweakKey := tweakKey, generation := g } s

/-- The record is made under the named entry: the slot becomes READY and the response OK carries the record; when the
entry is EMPTY the slot becomes EMPTY and the response is NO_WRAP (R53, R58). -/
def makeSlotRecord (k : SlotIx) (e : EntryIx) (g : Generation) (dataKey tweakKey : Key) (nonce : Nonce) (s : State) :
    State :=
  match s.wrapping[e] with
  | none => failFilling k .noWrap s
  | some w => answer .ok (makeRecord w g nonce dataKey tweakKey) (readySlot k dataKey tweakKey g s)

/-- The catalogue entry of GENERATE KEY (R53). -/
def generateKeyBody (p : Bytes) (s : State) : State :=
  match indexParam 16 p 1, indexParam 4 p 2 with
  | some k, some e =>
    if s.slots[k].state ≠ .empty then answer .slotState [] s
    else if s.wrapping[e] = none then answer .noWrap [] s
    else if s.random = .failed then answer .noRandom [] s
    else { fillingSlot k s with du := some { task := .filling k e (generationParam p 3), silent := false } }
  | _, _ => answer .badParam [] s

/-- The catalogue entry of INSTALL KEY (R52, R54). -/
def installKeyBody (p : Bytes) (s : State) : State :=
  match indexParam 16 p 1, indexParam 4 p 2 with
  | some k, some e =>
    let record := slice p 3 96
    if s.slots[k].state ≠ .empty then answer .slotState [] s
    else if s.wrapping[e] = none then answer .noWrap [] s
    else if recordVersion record ≠ 1 then answer .badBlob [] s
    else { fillingSlot k s with du := some { task := .opening k e record, silent := false } }
  | _, _ => answer .badParam [] s

/-! ### Draining a slot (R55 to R57) -/

/-- Every tag of a list that is ACTIVE or FLUSHING ends ERASED (R55, R57). -/
def cutTransfers (ts : List Tag) (s : State) : State := ts.foldl (fun s t => endTransfer t .erased none s) s

/-- An accepted REKEY SLOT or DISCARD KEY: the slot becomes DRAINING with its drain set; CUT ends the set's transfers,
after which the intake heads take the frames behind those discarded (R79), and WAIT starts the drain timer; an empty set
is a drain complete at once (R55). -/
def beginDrain (k : SlotIx) (goal : DrainGoal) (mode : DrainMode) (s : State) : State :=
  let tags := drainSetOf k s
  let timer := match mode with
    | .wait => if tags.isEmpty then none else some (timeAfter s.time (1000 * s.limits.drain))
    | .cut => none
  let s := putSlot k { s.slots[k] with state := .draining, drainSet := tags } s
  let s := { s with du := some { task := .draining k goal timer, silent := false } }
  if tags.isEmpty then completeDrain k goal s
  else match mode with
    | .wait => s
    | .cut => heads (cutTransfers tags s)

/-- The catalogue entry of REKEY SLOT (R55). -/
def rekeySlotBody (p : Bytes) (s : State) : State :=
  match indexParam 16 p 1, indexParam 4 p 2, modeParam p 5 with
  | some k, some e, some mode =>
    let g := generationParam p 3
    if s.slots[k].state ≠ .ready then answer .slotState [] s
    else if s.wrapping[e] = none then answer .noWrap [] s
    else if s.random = .failed then answer .noRandom [] s
    else if s.slots[k].generation = g then answer .sameGeneration [] s
    else beginDrain k (.rekey e g) mode s
  | _, _, _ => answer .badParam [] s

/-- The catalogue entry of DISCARD KEY (R55). -/
def discardKeyBody (p : Bytes) (s : State) : State :=
  match indexParam 16 p 1, modeParam p 2 with
  | some k, some mode =>
    if s.slots[k].state ≠ .ready then answer .slotState [] s else beginDrain k .discard mode s
  | _, _ => answer .badParam [] s

/-! ### The Random Source (R47, R48) -/

/-- The source enters FAILED: RANDOM_FAIL is set, and a fill that has not ended fails (R47, R48). -/
def randomFails (s : State) : State :=
  let s := raise Flag.randomFail { s with random := .failed }
  match s.du with
  | some ⟨.filling k _ _, _⟩ => failFilling k .randomFailed s
  | _ => s

/-- The start-up health test ends (R47); while the source is not WARMING no test runs. -/
def startUpTestEnds (passed : Bool) (s : State) : State :=
  if s.random = .warming then if passed then { s with random := .ready } else randomFails s else s

/-- The running health test fails; it runs in READY only (R48). -/
def runningTestFails (s : State) : State := if s.random = .ready then randomFails s else s

/-- The last random byte of a fill is taken, the source being READY: the record is made at once, or its wrapping
computation begins, when the named entry is filled (R48, R53, R58; log entries 6 and 7). -/
def fillEnds (dataKey tweakKey : Key) (nonce : Nonce) (atOnce : Bool) (s : State) : State :=
  match s.du, s.random with
  | some ⟨.filling k e g, silent⟩, .ready =>
    if atOnce || s.wrapping[e].isNone then makeSlotRecord k e g dataKey tweakKey nonce s
    else { s with du := some { task := .wrapping k e g dataKey tweakKey nonce, silent := silent } }
  | _, _ => s

/-- The wrapping computation of a fill that has ended completes (R53, R58). -/
def wrappingEnds (s : State) : State :=
  match s.du with
  | some ⟨.wrapping k e g dataKey tweakKey nonce, _⟩ => makeSlotRecord k e g dataKey tweakKey nonce s
  | _ => s

/-- The opening of an installed record ends: READY with the record's keys and generation, or EMPTY with WRAP_CHECK
(R52, R54). -/
def openingEnds (s : State) : State :=
  match s.du with
  | some ⟨.opening k e record, _⟩ =>
    match s.wrapping[e] with
    | none => failFilling k .noWrap s
    | some w =>
      match openRecord w record with
      | none => failFilling k .wrapCheck s
      | some (dataKey, tweakKey, g) => answer .ok [] (readySlot k dataKey tweakKey g s)
  | _ => s

/-- Every wrapping entry becomes EMPTY, and a directive that is filling a slot ends NO_WRAP (R46). -/
def zeroiseEntries (s : State) : State :=
  let s := { s with wrapping := Vector.replicate 4 none }
  match s.du with
  | some ⟨.filling k _ _, _⟩ | some ⟨.wrapping k _ _ _ _ _, _⟩ | some ⟨.opening k _ _, _⟩ => failFilling k .noWrap s
  | _ => s

/-! ### The commands -/

/-- SET_WRAPPING_KEY (R44). -/
def execSetWrappingKey (s : State) : Host.Outcome State Fault Refusal :=
  atEvent (fun s => transmit (beginDirective .setWrappingKey setWrappingKeyBody s)) s

/-- CLEAR_WRAPPING_KEY (R45). -/
def execClearWrappingKey (s : State) : Host.Outcome State Fault Refusal :=
  atEvent (fun s => transmit (beginDirective .clearWrappingKey clearWrappingKeyBody s)) s

/-- GENERATE_KEY (R53). -/
def execGenerateKey (s : State) : Host.Outcome State Fault Refusal :=
  atEvent (fun s => transmit (beginDirective .generateKey generateKeyBody s)) s

/-- INSTALL_KEY (R54). -/
def execInstallKey (s : State) : Host.Outcome State Fault Refusal :=
  atEvent (fun s => transmit (beginDirective .installKey installKeyBody s)) s

/-- REKEY_SLOT (R55). -/
def execRekeySlot (s : State) : Host.Outcome State Fault Refusal :=
  atEvent (fun s => transmit (beginDirective .rekeySlot rekeySlotBody s)) s

/-- DISCARD_KEY (R55). -/
def execDiscardKey (s : State) : Host.Outcome State Fault Refusal :=
  atEvent (fun s => transmit (beginDirective .discardKey discardKeyBody s)) s

/-- START_UP_TEST_COMPLETE (R47). -/
def execStartUpTestComplete (passed : Bool) (s : State) : Host.Outcome State Fault Refusal :=
  atEvent (fun s => transmit (startUpTestEnds passed s)) s

/-- RUNNING_TEST_FAILURE (R48). -/
def execRunningTestFailure (s : State) : Host.Outcome State Fault Refusal :=
  atEvent (fun s => transmit (runningTestFails s)) s

/-- FILL_END (R48). -/
def execFillEnd (dataKey tweakKey : Key) (nonce : Nonce) (atOnce : Bool) (s : State) :
    Host.Outcome State Fault Refusal :=
  atEvent (fun s => transmit (fillEnds dataKey tweakKey nonce atOnce s)) s

/-- WRAPPED_RECORD_MADE (R53). -/
def execWrappedRecordMade (s : State) : Host.Outcome State Fault Refusal :=
  atEvent (fun s => transmit (wrappingEnds s)) s

/-- RECORD_OPENING_END (R54). -/
def execRecordOpeningEnd (s : State) : Host.Outcome State Fault Refusal :=
  atEvent (fun s => transmit (openingEnds s)) s

end Sys2Proof.Machine
end

