-- ==== Sys2Proof/Machine/Lanes.lean ====
section
/-! DEFINITION. The cipher lanes: the Lane Dispatcher's grant and the job start (R101 to R103), the output frames of a
completed job (R106, R119 to R123, R134, R135), the hand-off (R110) and the repeated bypass offer (R133). -/

namespace Sys2Proof.Machine

/-! ### Job start -/

/-- The lowest-numbered IDLE lane (R102). -/
def idleLane (s : State) : Option LaneIx := allLanes.find? (fun l => s.lanes[l] == .idle)

/-- The front candidate for a lane (R101). -/
def waitingFront (s : State) : Option Queued :=
  match s.fiq with
  | q :: _ => if frontCandidate q s then some q else none
  | [] => none

/-- The media candidate for a lane: the head frame, when it belongs to an ACTIVE READ context and has been judged DECIPHER
(R101, R131). -/
def waitingMedia (s : State) : Option Queued :=
  match s.miq with
  | q :: _ => if s.verdict = some .decipher ∧ belongsToRead q s then some q else none
  | [] => none

/-- The candidate that is granted, with its side (R102). -/
def grantedCandidate (s : State) : Option (PortId × Queued) :=
  match waitingFront s, waitingMedia s with
  | none, none => none
  | some q, none => some (.front, q)
  | none, some q => some (.media, q)
  | some f, some m =>
    match s.laneTurn with
    | .front => some (.front, f)
    | .media => some (.media, m)

/-- The pointer after a grant names the side that was not granted (R102). -/
def turnAfterGrant : PortId → LaneTurn
  | .front => .media
  | .media => .front

/-- The input set of a job, taken whole from one range record, one slot record and the context (R2, R103). -/
def inputSet (lba : Nat) (r : RangeIx) (range : RangeRecord) (slot : SlotRecord) (f : FormatCode) : InputSet :=
  { lba := lba, range := r, rangeStart := if r = 0 then 0 else range.start, tweakBase := range.tweakBase,
    metaCipher := range.metaCipher, checkMask := range.checkMask, zeroMark := range.zeroMark,
    generation := slot.generation, dataKey := slot.dataKey, tweakKey := slot.tweakKey, format := f }

/-- The sector bytes a lane takes from a frame: the plaintext of a write, or the three parts of a read payload cut by
the clamped m (R103, R134). -/
def sectorBytes (side : PortId) (i : InputSet) (payload : Bytes) : SectorBytes :=
  match side with
  | .front => .plain payload
  | .media =>
    let l := cipheredLength i.metaCipher i.format
    let n := sectorLength i.format
    .ciphered (payload.take l) (slice payload l (n - l)) (trailerOfBytes (payload.drop n))

/-- The lane job starts on a granted candidate, its range naming a slot: the six steps of R103, the pointer of R102. -/
def startJob (l : LaneIx) (side : PortId) (q : Queued) (k : SlotIx) (s : State) : State :=
  let t := frameTag q.frame
  let c := s.contexts[t]
  let lba := c.start + frameIndex q.frame
  let r := lookup s.ranges lba
  let i := inputSet lba r s.ranges[r] s.slots[k] c.format
  let job : Job :=
    { tag := t, index := frameIndex q.frame, slot := k, inputs := i, sector := sectorBytes side i q.frame.payload }
  let s := putSlot k { s.slots[k] with pins := s.slots[k].pins + 1 } s
  let s := popIntake side { s with laneTurn := turnAfterGrant side }
  let s := putContext t (c.take (idleDeadline s) (frameIndex q.frame) 1) s
  putLane l (.running job) s

/-- The slot of the range that the lookup of a candidate's LBA returns (R103). -/
def candidateSlot (q : Queued) (s : State) : Option SlotIx :=
  s.ranges[lookup s.ranges (s.contexts[frameTag q.frame].start + frameIndex q.frame)].slot

/-! ### Job completion -/

/-- The trailer of a written sector (R122). -/
def writtenTrailer (i : InputSet) (r : ForwardResult) : Trailer :=
  { check := r.check, stamp := i.generation, range := BitVec.ofNat 8 i.range.val,
    form := formatByte i.metaCipher i.format }

/-- The output frame of a write job: a ZERO frame when ZERO_MARK is set and the zero test true, otherwise a media SECTOR
frame (R119 to R123). -/
def writeOutput (j : Job) (plain : Bytes) (c : Context) : Frame :=
  let r := forwardSector j.inputs plain
  let trailer := trailerBytes (writtenTrailer j.inputs r)
  if j.inputs.zeroMark && r.zero then mediaFrame Kind.zero j.tag c j.index j.inputs.lba trailer
  else mediaFrame Kind.sector j.tag c j.index j.inputs.lba (r.region ++ r.clear ++ trailer)

/-- The output frame of a read job: the recovered bytes, GOOD when the recomputed check word equals the trailer's and
CHECK_FAIL otherwise (R135). -/
def readOutput (j : Job) (region clear : Bytes) (t : Trailer) (c : Context) : Frame :=
  let plain := inverseSector j.inputs region clear
  let status := if sectorCheck j.inputs.format j.inputs.checkMask plain = t.check then ReadStatus.good else .checkFail
  readFrame j.tag c j.index status plain

/-- The output frame of a job (R106). -/
def outputFrame (j : Job) (c : Context) : Frame :=
  match j.sector with
  | .plain bytes => writeOutput j bytes c
  | .ciphered region clear t => readOutput j region clear t c

/-- The target queue of a job (R100). -/
def targetQueue (j : Job) : SectorQueue :=
  match j.direction with
  | .write => .moq
  | .read => .fsq

/-- The output of a completing job is offered, and not discarded: an ACTIVE or FLUSHING context, or a WRITE of an ENDING
context while the media link is UP (R106). -/
def outputOffered (j : Job) (s : State) : Bool :=
  let c := s.contexts[j.tag]
  c.state.running || (c.state == .ending && j.direction == .write && s.media.link == .up)

/-- The completion of a lane's job (R106). -/
def completeJob (l : LaneIx) (j : Job) (s : State) : State :=
  if outputOffered j s then offerOutput l j (outputFrame j s.contexts[j.tag]) (targetQueue j) s
  else discardOutput l j s

/-! ### Hand-off and the waiting bypass -/

/-- The hold list of a queue (R107). -/
def holdList (q : SectorQueue) (s : State) : List LaneIx :=
  match q with
  | .moq => s.moqHold
  | .fsq => s.fsqHold

/-- The depth of an outbound sector queue. -/
def sectorDepth (q : SectorQueue) (s : State) : Nat :=
  match q with
  | .moq => s.moq.length
  | .fsq => s.fsq.length

/-- The lane to which a free place of a queue is handed: the first of the hold list, when the queue has a place
(R110). -/
def handOffLane (q : SectorQueue) (s : State) : Option (LaneIx × Job × Frame) :=
  match holdList q s with
  | [] => none
  | l :: _ =>
    if sectorDepth q s < Config.queueCapacity then
      match s.lanes[l] with
      | .holding j f _ => some (l, j, f)
      | _ => none
    else none

/-- The bypass sector that waits at the media intake head and now finds room (R133). -/
def waitingBypass (s : State) : Option (Queued × ReadStatus) :=
  match s.miq, s.verdict.bind bypassStatus with
  | q :: _, some r => if belongsToRead q s && hasRoom .fsq s then some (q, r) else none
  | _, _ => none

/-! ### The commands -/

/-- One grant of the Lane Dispatcher and the job start it brings (R102, R103). Nothing happens when no lane is IDLE or no
candidate waits. -/
def grantLane (s : State) : Host.Outcome State Fault Refusal :=
  match idleLane s, grantedCandidate s with
  | some l, some (side, q) =>
    match candidateSlot q s with
    | some k => .next (settle (startJob l side q k s))
    | none => .fault .jobStartWithoutSlot
  | _, _ => .next s

/-- LANE_JOB_START (R102, R103). -/
def execLaneJobStart (s : State) : Host.Outcome State Fault Refusal :=
  if s.inReset then .next s else grantLane (serveHeads s)

/-- LANE_JOB_COMPLETION: the transform of a RUNNING lane ends (R106). -/
def execLaneJobCompletion (l : LaneIx) (s : State) : Host.Outcome State Fault Refusal :=
  atEvent (fun s => match s.lanes[l] with
    | .running j => transmit (completeJob l j s)
    | _ => s) s

/-- HAND_OFF: a free place of a queue goes to the first lane of its hold list (R110). -/
def execHandOff (q : SectorQueue) (s : State) : Host.Outcome State Fault Refusal :=
  atEvent (fun s => match handOffLane q s with
    | some (l, j, f) => transmit (enterOutput l j f q s)
    | none => s) s

/-- BYPASS_OFFER: the waiting bypass sector finds room in the FSQ and enters it (R133). -/
def execBypassOffer (s : State) : Host.Outcome State Fault Refusal :=
  atEvent (fun s => match waitingBypass s with
    | some (q, r) => settle (takeBypass q r s)
    | none => s) s

end Sys2Proof.Machine
end

