-- ==== Sys2Proof/Machine/Links.lean ====
section
/-! DEFINITION. The four link events (R84, R85, R98, R111, R112, R150, R152 to R154) and the spans of the auto-lock timer
(R155). -/

namespace Sys2Proof.Machine

/-- A port at its link-down event: DOWN, its flow state released, nothing in transmission (R98, R150). -/
def Port.lost (x : Port) : Port :=
  { x with link := .down, held := false, peerHold := false, pendingFlow := none, told := none, sending := none }

/-- The span of the auto-lock timer in microseconds; selector 0 does not start it (Table 10-2). -/
def autoLockSpan (selector : Nat) : Option Nat :=
  if selector = 0 then none else some (500000 * 2 ^ (selector - 1))

/-- What a front link loss does to a context (R84). -/
def frontLossContext (t : Tag) (s : State) : State :=
  let c := s.contexts[t]
  match c.state with
  | .free => s
  | .active | .flushing => enterEnding t { c with suppressed := true } s
  | .ending => leaveEnding t (putContext t { c with suppressed := true } s)
  | .reporting => freeContext t s

/-- The Directive Queue after a front link loss: the entry being executed, if any (R98). -/
def executingEntries (s : State) : List DrqEntry :=
  match s.du with
  | none => []
  | some _ => (firstUnexecuted s.drq).toList

/-- The front link goes DOWN (R152): the front queues are emptied, an executing directive's response is to be discarded,
the auto-lock timer starts, and every context is treated by its state. A judged frame at the media head is discarded with
its context (R79, R127); the frames behind it come to the head after this event (R84; log entry 10). -/
def frontLoss (s : State) : State :=
  let s :=
    { s with
      front := s.front.lost, fiq := [], fsq := [], rpq := [], drq := executingEntries s,
      du := s.du.map (fun x => { x with silent := true }),
      autoLock := (autoLockSpan s.limits.selector).map (timeAfter s.time) }
  allTags.foldl (fun s t => frontLossContext t s) s

/-- The sector that waits at the front intake head for a lane, if one does, is discarded (R71, R79). -/
def discardWaitingSector (s : State) : State :=
  match s.fiq with
  | q :: _ => if frontCandidate q s then popIntake .front s else s
  | [] => s

/-- The media link goes DOWN (R154): MIQ and MOQ are emptied, the verdict is absent, every ACTIVE or FLUSHING context ends
MEDIA_LOST, and HOLDING WRITE outputs are discarded. The sector that waited at the front head is discarded with its
context (R71, R79); the frames behind it stay in the FIQ and come to the head after this event (log entry 10). -/
def mediaLoss (s : State) : State :=
  let s := discardWaitingSector { s with media := s.media.lost, miq := [], moq := [], verdict := none }
  let waiting := s.fiq
  let s := allTags.foldl (fun s t => endTransfer t .mediaLost none s) { s with fiq := [] }
  let s := allLanes.foldl (fun s l => discardHeldWrite l s) s
  { s with fiq := waiting }

/-- FRONT_LINK_DOWN (R152); a report of the state the port already holds changes nothing (R150). -/
def execFrontLinkDown (s : State) : Host.Outcome State Fault Refusal :=
  .next (if s.inReset ∨ s.front.link = .down then s else transmit (frontLoss s))

/-- FRONT_LINK_UP (R153): the auto-lock timer stops and the front transmitter begins to send. -/
def execFrontLinkUp (s : State) : Host.Outcome State Fault Refusal :=
  .next (if s.inReset ∨ s.front.link = .up then s
    else transmit { s with front := { s.front with link := .up }, autoLock := none })

/-- MEDIA_LINK_DOWN (R154). -/
def execMediaLinkDown (s : State) : Host.Outcome State Fault Refusal :=
  .next (if s.inReset ∨ s.media.link = .down then s else transmit (mediaLoss s))

/-- MEDIA_LINK_UP (R154): the media transmitter begins on the MOQ. -/
def execMediaLinkUp (s : State) : Host.Outcome State Fault Refusal :=
  .next (if s.inReset ∨ s.media.link = .up then s
    else transmit { s with media := { s.media with link := .up } })

end Sys2Proof.Machine
end

