-- ==== Sys2Proof/Machine/Ports.lean ====
section
/-! DEFINITION. What happens at the two ports: the arrival of frames (R87, R95) and the end of a transmission
(R81, R91, R93, R96, R97). -/

namespace Sys2Proof.Machine

/-! ### Arrival -/

/-- FRAME_ARRIVAL: a whole frame arrives at a port, and head processing follows; a DOWN port receives nothing (R87). -/
def execFrameArrival (p : PortId) (f : Frame) (s : State) : Host.Outcome State Fault Refusal :=
  atEvent (fun s => if (s.port p).link = .down then s else settle (receive p f s)) s

/-- HOLD_ARRIVAL: a HOLD whose header check passes sets the peer hold (R95). -/
def execHoldArrival (p : PortId) (s : State) : Host.Outcome State Fault Refusal :=
  atEvent (fun s => if (s.port p).link = .down then s else transmit (hearFlow p .hold s)) s

/-- GO_ARRIVAL: a GO whose header check passes clears the peer hold (R95). -/
def execGoArrival (p : PortId) (s : State) : Host.Outcome State Fault Refusal :=
  atEvent (fun s => if (s.port p).link = .down then s else transmit (hearFlow p .go s)) s

/-! ### The end of a transmission -/

/-- A port whose frame in transmission has been sent. -/
def Port.sent (f : Option Frame) (x : Port) : Port :=
  { x with sending := none, line := match f with | some g => some g | none => x.line }

/-- What the leaving of an RPQ frame brings: a COMPLETION frees its context (R81), a RESPONSE frees its Directive Queue
entry, which is the head (R91). -/
def reportLeaves (f : Frame) (s : State) : State :=
  if f.header.kind = Kind.completion then
    if s.contexts[frameTag f].state = .reporting then putContext (frameTag f) Context.free s else s
  else { s with drq := s.drq.tail }

/-- The last byte of the front queued frame in transmission has been sent (R96). -/
def frontSent (s : State) : State :=
  match s.front.sending with
  | some .rpq =>
    let s' := { s with front := s.front.sent s.rpq.head?, rpq := s.rpq.tail }
    match s.rpq with
    | f :: _ => reportLeaves f s'
    | [] => s'
  | some .fsq => { s with front := s.front.sent s.fsq.head?, fsq := s.fsq.tail }
  | _ => s

/-- The last byte of the MOQ head has been sent (R97). -/
def mediaSent (s : State) : State :=
  match s.media.sending with
  | some .moq => { s with media := s.media.sent s.moq.head?, moq := s.moq.tail }
  | _ => s

/-- The last byte of a port's HOLD or GO has been sent: the pending flow frame that it was becomes none, and the marks
are tested (R93). A GO made pending by an engine reset while a HOLD was in transmission stays pending (R99); the marks are
tested at the end of such a HOLD, or of a GO that a reset found in transmission, too (DESIGN CHOICE, log entry 26). -/
def flowSent (p : PortId) (s : State) : State :=
  match (s.port p).sending with
  | some (.flow f) =>
    let x := (s.port p).sent (some (flowFrame f))
    testMarks p (putPort p { x with pendingFlow := if x.pendingFlow = some f then none else x.pendingFlow } s)
  | _ => s

/-- FRONT_FRAME_SENT (R96). -/
def execFrontFrameSent (s : State) : Host.Outcome State Fault Refusal :=
  atEvent (fun s => transmit (frontSent s)) s

/-- MEDIA_FRAME_SENT (R97). -/
def execMediaFrameSent (s : State) : Host.Outcome State Fault Refusal :=
  atEvent (fun s => transmit (mediaSent s)) s

/-- FLOW_FRAME_SENT (R93). -/
def execFlowFrameSent (p : PortId) (s : State) : Host.Outcome State Fault Refusal :=
  atEvent (fun s => transmit (flowSent p s)) s

end Sys2Proof.Machine
end

