-- ==== Sys2Proof/Machine/Power.lean ====
section
/-! DEFINITION. The power-on reset input (R147, R156). -/

namespace Sys2Proof.Machine

/-- POWER_ON: the release of the power-on reset input; every block takes its power-on value, whatever came before
(R156). The commands that wait are not part of the part and stay. -/
def execPowerOn (s : State) : Host.Outcome State Fault Refusal := .next { State.reset with pending := s.pending }

/-- POWER_ON_RESET_ASSERTED: everything in progress is abandoned and every block is held at its power-on value until the
release (R156; log entry 5). -/
def execPowerOnResetAsserted (s : State) : Host.Outcome State Fault Refusal :=
  .next { State.reset with inReset := true, pending := s.pending }

end Sys2Proof.Machine
end

