-- ==== Sys2Proof/Machine/RangeDirectives.lean ====
section
/-! DEFINITION. The range directives: DEFINE RANGE, DISABLE RANGE and SET LOCKS (R27 to R33). -/

namespace Sys2Proof.Machine

/-- The new extent of a range meets another enabled range 1 to 15 (check 5 of Table 2-3). -/
def overlapsOther (k : RangeIx) (r : RangeRecord) (rt : Vector RangeRecord 16) : Bool :=
  rangeIndices.any (fun j => j != 0 && j != k && rt[j].enabled && extentsMeet rt[j].start rt[j].stop r.start r.stop)

/-- Checks 3 to 6 of Table 2-3; range 0 has check 6 alone, against the LBAs that map to it (R29 to R31). -/
def defineRefusal (k : RangeIx) (r : RangeRecord) (s : State) : Option Result :=
  if k = 0 then if globalBusy s.ranges s.contexts then some .rangeBusy else none
  else if r.length = 0 then some .badParam
  else if r.stop > s.limits.ceiling then some .outOfRange
  else if overlapsOther k r s.ranges then some .overlap
  else if currentExtentBusy k s || extentBusy s.contexts r.start r.stop then some .rangeBusy
  else none

/-- The record that an accepted DEFINE RANGE stores: the carried fields; range 0 takes no bounds (R27, R31). -/
def definedRecord (k : RangeIx) (r : RangeRecord) : RangeRecord :=
  if k = 0 then { r with start := 0, length := 0 } else r

/-- The catalogue entry of DEFINE RANGE (R27, R29, R31). -/
def defineRangeBody (p : Bytes) (s : State) : State :=
  match indexParam 16 p 1, slotParam p 2 with
  | some k, some slot =>
    let r := rangeParam slot p
    match defineRefusal k r s with
    | some e => answer e [] s
    | none => answer .ok [] (putRange k (definedRecord k r) s)
  | _, _ => answer .badParam [] s

/-- The catalogue entry of DISABLE RANGE (R32). -/
def disableRangeBody (p : Bytes) (s : State) : State :=
  match indexParam 16 p 1 with
  | some k =>
    if k = 0 then answer .badParam [] s
    else if currentExtentBusy k s then answer .rangeBusy [] s
    else answer .ok [] (putRange k RangeRecord.disabled s)
  | none => answer .badParam [] s

/-- The catalogue entry of SET LOCKS (R33). -/
def setLocksBody (p : Bytes) (s : State) : State :=
  match indexParam 16 p 1 with
  | some k =>
    let a := byteAt p 2
    answer .ok [] (putRange k { s.ranges[k] with readLock := a.getLsbD 0, writeLock := a.getLsbD 1 } s)
  | none => answer .badParam [] s

/-- DEFINE_RANGE (R27). -/
def execDefineRange (s : State) : Host.Outcome State Fault Refusal :=
  atEvent (fun s => transmit (beginDirective .defineRange defineRangeBody s)) s

/-- DISABLE_RANGE (R32). -/
def execDisableRange (s : State) : Host.Outcome State Fault Refusal :=
  atEvent (fun s => transmit (beginDirective .disableRange disableRangeBody s)) s

/-- SET_LOCKS (R33). -/
def execSetLocks (s : State) : Host.Outcome State Fault Refusal :=
  atEvent (fun s => transmit (beginDirective .setLocks setLocksBody s)) s

end Sys2Proof.Machine
end

