-- ==== Sys2Proof/Machine/Timers.lean ====
section
/-! DEFINITION. The time base and the three kinds of timer (R35, R57, R76, R155, R157). -/

namespace Sys2Proof.Machine

/-- The time at which an expiry is taken: the deadline, or now when the deadline has passed (R157; log entry 3). -/
def expiryTime (now deadline : Time) : Time := if timeRemaining now deadline = 0 then now else deadline

/-- A deadline has been passed by `unit` microseconds: its expiry can wait no longer (R157). -/
def windowClosed (now deadline : Time) (unit : Nat) : Bool :=
  decide (unit ≤ (now - deadline).toNat) && decide ((now - deadline).toNat < 2 ^ 63)

/-- A deadline has been passed by more than `unit` microseconds, which no run of the part shows (R157). -/
def overdue (now deadline : Time) (unit : Nat) : Bool :=
  decide (unit < (now - deadline).toNat) && decide ((now - deadline).toNat < 2 ^ 63)

/-- The timers of the part (R157). -/
inductive TimerId where
  | autoLock
  | drain
  | idle (t : Tag)
deriving DecidableEq, Repr

/-- A running timer: whose it is, its deadline, and one unit of its limit in microseconds (R157). -/
structure RunningTimer where
  id       : TimerId
  deadline : Time
  unit     : Nat
deriving DecidableEq, Repr

/-- The expiry of a context's idle deadline: it ends TIMEOUT, when it is still ACTIVE (R76). -/
def expireIdle (t : Tag) (s : State) : State :=
  if s.contexts[t].state = .active then heads (endTransfer t .timeout none s) else s

/-- The drain timer that runs, with its slot (R57). -/
def runningDrain (s : State) : Option (SlotIx × Time) :=
  match s.du with
  | some ⟨.draining k _ (some d), _⟩ => some (k, d)
  | _ => none

/-- The drain timer stops (R57). -/
def stopDrainTimer (s : State) : State :=
  match s.du with
  | some ⟨.draining k goal _, silent⟩ => { s with du := some { task := .draining k goal none, silent := silent } }
  | _ => s

/-- The expiry of the drain timer: DRAIN_CUT is set and the contexts of the set that are ACTIVE or FLUSHING end ERASED;
no further timer runs (R57). -/
def expireDrain (k : SlotIx) (s : State) : State :=
  heads (cutTransfers s.slots[k].drainSet (raise Flag.drainCut (stopDrainTimer s)))

/-- Both locks are set on an enabled range whose LINK_LOCK is set (R35). -/
def lockedRecord (r : RangeRecord) : RangeRecord :=
  if r.enabled && r.linkLock then { r with readLock := true, writeLock := true } else r

/-- Every range's record after the auto-lock expiry (R35). -/
def lockRanges (s : State) : State :=
  rangeIndices.foldl (fun s k => putRange k (lockedRecord s.ranges[k]) s) s

/-- The expiry of the auto-lock timer (R155): the marked ranges are locked, the wrapping entries zeroised, LINK_LOCKED is
set and the timer stops. -/
def expireAutoLock (s : State) : State :=
  zeroiseEntries (raise Flag.linkLocked (lockRanges { s with autoLock := none }))

/-- The timers that run: the auto-lock timer, the drain timer and the idle deadlines of ACTIVE contexts, with the units of
R157: 1 ms for the first two, 100 microseconds for the idle deadlines. -/
def runningTimers (s : State) : List RunningTimer :=
  (match s.autoLock with | some d => [{ id := .autoLock, deadline := d, unit := 1000 }] | none => []) ++
  (match runningDrain s with | some (_, d) => [{ id := .drain, deadline := d, unit := 1000 }] | none => []) ++
  allTags.filterMap (fun t => if s.contexts[t].state = .active
    then s.contexts[t].deadline.map (fun d => { id := .idle t, deadline := d, unit := 100 }) else none)

/-- A timer may be the next to expire at its deadline, or now when that has passed: no other running timer would then be
overdue, so that it would have had to expire before (R157; log entry 3). -/
def mayExpire (id : TimerId) (deadline : Time) (s : State) : Bool :=
  (runningTimers s).all (fun x => x.id == id || !overdue (expiryTime s.time deadline) x.deadline x.unit)

/-- The auto-lock timer expires when its window has closed. -/
def autoLockDue (s : State) : State :=
  match s.autoLock with
  | some d => if windowClosed s.time d 1000 then transmit (expireAutoLock s) else s
  | none => s

/-- The drain timer expires when its window has closed. -/
def drainDue (s : State) : State :=
  match runningDrain s with
  | some (k, d) => if windowClosed s.time d 1000 then transmit (expireDrain k s) else s
  | none => s

/-- A context's idle deadline expires when its window has closed. -/
def idleDue (t : Tag) (s : State) : State :=
  match s.contexts[t].deadline with
  | some d => if s.contexts[t].state = .active ∧ windowClosed s.time d 100 then transmit (expireIdle t s) else s
  | none => s

/-- One microsecond of the time base (R157): the frames that wait for a head are taken, every timer whose window closes now
expires, and then the microsecond passes (log entry 3). While the power-on reset input is asserted the time base is held
(R156). -/
def tick (s : State) : State :=
  if s.inReset then s
  else
    let s := allTags.foldl (fun s t => idleDue t s) (drainDue (autoLockDue (serveHeads s)))
    { s with time := s.time + 1 }

/-- IDLE_DEADLINE_EXPIRY: the deadline of an ACTIVE context that holds one expires (R76). -/
def execIdleDeadlineExpiry (t : Tag) (s : State) : Host.Outcome State Fault Refusal :=
  atEvent (fun s => match s.contexts[t].deadline with
    | some d => if s.contexts[t].state = .active ∧ mayExpire (.idle t) d s
        then transmit (expireIdle t { s with time := expiryTime s.time d }) else s
    | none => s) s

/-- DRAIN_TIMER_EXPIRY: the running drain timer expires (R57). -/
def execDrainTimerExpiry (s : State) : Host.Outcome State Fault Refusal :=
  atEvent (fun s => match runningDrain s with
    | some (k, d) => if mayExpire .drain d s
        then transmit (expireDrain k { s with time := expiryTime s.time d }) else s
    | none => s) s

/-- AUTO_LOCK_EXPIRY: the running auto-lock timer expires (R155). -/
def execAutoLockExpiry (s : State) : Host.Outcome State Fault Refusal :=
  atEvent (fun s => match s.autoLock with
    | some d => if mayExpire .autoLock d s
        then transmit (expireAutoLock { s with time := expiryTime s.time d }) else s
    | none => s) s

end Sys2Proof.Machine
end

