-- ==== Sys2Proof/Machine/Dispatch.lean ====
section
/-! DEFINITION. The meaning of every command: one arm for each constructor of `Instr`, each one direct call. -/

namespace Sys2Proof.Machine

def exec (i : Instr) (s : State) : Host.Outcome State Fault Refusal :=
  match i with
  | .powerOn => Sys2Proof.Machine.execPowerOn s
  | .powerOnResetAsserted => Sys2Proof.Machine.execPowerOnResetAsserted s
  | .frontLinkDown => Sys2Proof.Machine.execFrontLinkDown s
  | .frontLinkUp => Sys2Proof.Machine.execFrontLinkUp s
  | .mediaLinkDown => Sys2Proof.Machine.execMediaLinkDown s
  | .mediaLinkUp => Sys2Proof.Machine.execMediaLinkUp s
  | .frameArrival p f => Sys2Proof.Machine.execFrameArrival p f s
  | .holdArrival p => Sys2Proof.Machine.execHoldArrival p s
  | .goArrival p => Sys2Proof.Machine.execGoArrival p s
  | .laneJobStart => Sys2Proof.Machine.execLaneJobStart s
  | .laneJobCompletion l => Sys2Proof.Machine.execLaneJobCompletion l s
  | .handOff q => Sys2Proof.Machine.execHandOff q s
  | .bypassOffer => Sys2Proof.Machine.execBypassOffer s
  | .frontFrameSent => Sys2Proof.Machine.execFrontFrameSent s
  | .mediaFrameSent => Sys2Proof.Machine.execMediaFrameSent s
  | .flowFrameSent p => Sys2Proof.Machine.execFlowFrameSent p s
  | .idleDeadlineExpiry t => Sys2Proof.Machine.execIdleDeadlineExpiry t s
  | .drainTimerExpiry => Sys2Proof.Machine.execDrainTimerExpiry s
  | .autoLockExpiry => Sys2Proof.Machine.execAutoLockExpiry s
  | .startUpTestComplete passed => Sys2Proof.Machine.execStartUpTestComplete passed s
  | .runningTestFailure => Sys2Proof.Machine.execRunningTestFailure s
  | .fillEnd dataKey tweakKey nonce atOnce => Sys2Proof.Machine.execFillEnd dataKey tweakKey nonce atOnce s
  | .wrappedRecordMade => Sys2Proof.Machine.execWrappedRecordMade s
  | .recordOpeningEnd => Sys2Proof.Machine.execRecordOpeningEnd s
  | .defineRange => Sys2Proof.Machine.execDefineRange s
  | .disableRange => Sys2Proof.Machine.execDisableRange s
  | .setLocks => Sys2Proof.Machine.execSetLocks s
  | .setWrappingKey => Sys2Proof.Machine.execSetWrappingKey s
  | .clearWrappingKey => Sys2Proof.Machine.execClearWrappingKey s
  | .generateKey => Sys2Proof.Machine.execGenerateKey s
  | .installKey => Sys2Proof.Machine.execInstallKey s
  | .rekeySlot => Sys2Proof.Machine.execRekeySlot s
  | .discardKey => Sys2Proof.Machine.execDiscardKey s
  | .abandonTransfer => Sys2Proof.Machine.execAbandonTransfer s
  | .setLimits => Sys2Proof.Machine.execSetLimits s
  | .queryEngine => Sys2Proof.Machine.execQueryEngine s
  | .queryRange => Sys2Proof.Machine.execQueryRange s
  | .querySlot => Sys2Proof.Machine.execQuerySlot s
  | .queryContext => Sys2Proof.Machine.execQueryContext s
  | .queryLimits => Sys2Proof.Machine.execQueryLimits s
  | .clearEvents => Sys2Proof.Machine.execClearEvents s
  | .resetEngine => Sys2Proof.Machine.execResetEngine s
  | .unknownDirective => Sys2Proof.Machine.execUnknownDirective s

end Sys2Proof.Machine
end

