-- ==== Sys2Proof/Safety.lean ====
section
/-! DEFINITION. What a safe run of the part is, in the manual's words: the laws that every step keeps, and the situations and
results that statements about single commands speak of. Nothing here is used by the machine. -/

namespace Sys2Proof.Machine

/-! ### Laws that every step keeps -/

/-- Every step that answers a next state keeps a law, from every state that meets it. -/
def StepKeeps (law : State → Prop) : Prop := ∀ s t : State, law s → step s = .next t → law t

/-- ATTENTION is asserted if and only if some flag is set whose enable bit is set (R149). -/
abbrev AttentionTells (s : State) : Prop :=
  s.events.attention = decide (∃ f : Fin 15, s.events.flags.getLsbD f.val = true ∧ s.events.mask.getLsbD f.val = true)

/-- Two extents, from a start up to an exclusive end, share at least one LBA. -/
abbrev Meets (a e b f : Nat) : Prop := a < e ∧ b < f ∧ a < f ∧ b < e

/-- The law of the Range Table (R22, R23): the ceiling lies in 1 to 2^40; range 0 is enabled and has no bounds; an enabled
range 1 to 15 holds at least one LBA, ends no later than the ceiling and meets no other; a disabled one holds nothing
but its two locks. -/
abbrev RangesDisjoint (s : State) : Prop :=
  (1 ≤ s.limits.ceiling ∧ s.limits.ceiling ≤ 2 ^ 40) ∧
  (s.ranges[0].enabled = true ∧ s.ranges[0].start = 0 ∧ s.ranges[0].length = 0) ∧
  ∀ k : RangeIx, k ≠ 0 →
    (s.ranges[k].enabled = true →
      1 ≤ s.ranges[k].length ∧ s.ranges[k].start + s.ranges[k].length ≤ s.limits.ceiling ∧
      ∀ j : RangeIx, j ≠ 0 → j ≠ k → s.ranges[j].enabled = true →
        ¬ Meets s.ranges[j].start (s.ranges[j].start + s.ranges[j].length)
            s.ranges[k].start (s.ranges[k].start + s.ranges[k].length)) ∧
    (s.ranges[k].enabled = false →
      { s.ranges[k] with readLock := false, writeLock := false } = RangeRecord.disabled)

/-- No queue but the Report Queue holds more frames than Table 5-1 gives it (R86). -/
abbrev QueuesBounded (s : State) : Prop :=
  s.fiq.length ≤ 16 ∧ s.miq.length ≤ 16 ∧ s.drq.length ≤ 8 ∧ s.moq.length ≤ 16 ∧ s.fsq.length ≤ 16

/-- The number of lane jobs in flight of which a test holds. -/
def jobsInFlight (p : Job → Bool) (s : State) : Nat :=
  (allLanes.filter (fun l => match s.lanes[l].job with | some j => p j | none => false)).length

/-- The number of marks of an arrival map. -/
def markCount (m : BitVec 256) : Nat := ((List.range 256).filter (fun i => m.getLsbD i)).length

/-- The counters of a context (R62, R63): finished ≤ taken ≤ count ≤ 256, a READ context has taken one sector for each mark,
and in each state the three counters stand as the state says. -/
abbrev CountersAgree (c : Context) : Prop :=
  (1 ≤ c.count ∧ c.count ≤ 256 ∧ c.taken ≤ c.count ∧ c.finished ≤ c.taken) ∧
  (c.direction = .read → markCount c.marks = c.taken) ∧
  (c.state = .free → c = Context.free) ∧
  (c.state = .active → c.taken = c.finished + c.jobs ∧ c.taken < c.count) ∧
  (c.state = .flushing → c.taken = c.finished + c.jobs ∧ c.taken = c.count) ∧
  (c.state = .ending → c.finished + c.jobs ≤ c.taken) ∧
  (c.state = .reporting → c.jobs = 0)

/-- The accounts of the lanes (R41, R63): every slot's pin count and every context's jobs in flight are the number of lane
jobs that name it, and every context's counters agree. -/
abbrev LaneAccounts (s : State) : Prop :=
  (∀ k : SlotIx, s.slots[k].pins = jobsInFlight (fun j => j.slot == k) s) ∧
  (∀ t : Tag, s.contexts[t].jobs = jobsInFlight (fun j => j.tag == t) s) ∧
  ∀ t : Tag, CountersAgree s.contexts[t]

/-- The tag of the READ output that a lane holds, if it holds one. -/
def heldRead : Lane → Option Tag
  | .holding j _ .fsq => some j.tag
  | _ => none

/-- The queue for which a lane holds its output, if it holds one. -/
def heldFor : Lane → Option SectorQueue
  | .holding _ _ q => some q
  | _ => none

/-- The hold lists (R107, R109 to R112), beside the accounts of the lanes: each names, once each, the lanes that are HOLDING
for its queue, and the context of a READ output that is held is ACTIVE or FLUSHING. -/
abbrev HoldListsAgree (s : State) : Prop :=
  LaneAccounts s ∧ s.moqHold.Nodup ∧ s.fsqHold.Nodup ∧
  (∀ l : LaneIx, l ∈ s.moqHold ↔ heldFor s.lanes[l] = some .moq) ∧
  (∀ l : LaneIx, l ∈ s.fsqHold ↔ heldFor s.lanes[l] = some .fsq) ∧
  ∀ (l : LaneIx) (t : Tag), heldRead s.lanes[l] = some t → s.contexts[t].state.running = true

/-- The slot that the Directive Unit is filling, if it fills one. -/
def filledSlot (s : State) : Option SlotIx :=
  match s.du with
  | some ⟨.filling k _ _, _⟩ | some ⟨.wrapping k _ _ _ _ _, _⟩ | some ⟨.opening k _ _, _⟩ => some k
  | _ => none

/-- The slot that the Directive Unit is draining, if it drains one. -/
def drainedSlot (s : State) : Option SlotIx :=
  match s.du with
  | some ⟨.draining k _ _, _⟩ => some k
  | _ => none

/-- The Key Slot Table and the Directive Unit agree (R39, R40, R56): a slot is FILLING or DRAINING exactly while the
executing directive fills or drains it, a slot in EMPTY or FILLING holds zero keys, only a DRAINING slot has a drain set,
and that set holds open contexts, each once, and is not empty. -/
abbrev SlotsAgree (s : State) : Prop :=
  ∀ k : SlotIx,
    (s.slots[k].state = .filling ↔ filledSlot s = some k) ∧
    (s.slots[k].state = .draining ↔ drainedSlot s = some k) ∧
    (s.slots[k].state = .empty ∨ s.slots[k].state = .filling → s.slots[k].dataKey = 0 ∧ s.slots[k].tweakKey = 0) ∧
    (s.slots[k].state = .draining ↔ s.slots[k].drainSet ≠ []) ∧
    s.slots[k].drainSet.Nodup ∧
    ∀ t ∈ s.slots[k].drainSet, s.contexts[t].state.isOpen = true

/-- The range that holds an LBA of a context's span names a slot. -/
abbrev SpanUses (t : Tag) (k : SlotIx) (s : State) : Prop :=
  ∃ i < s.contexts[t].count, s.ranges[lookup s.ranges (s.contexts[t].start + i)].slot = some k

/-- The keys in use are held (R41, R43, R56, R104): beside the laws of the Range Table, the lanes and the slots, the range of
every LBA of an open context's span names a slot that is READY, or DRAINING with the context in its drain set; and a
lane job's key came from a slot that the span of its context uses. -/
abbrev KeysHeld (s : State) : Prop :=
  RangesDisjoint s ∧ LaneAccounts s ∧ SlotsAgree s ∧
  (∀ t : Tag, s.contexts[t].state.isOpen = true → ∀ i < s.contexts[t].count, ∃ k : SlotIx,
    s.ranges[lookup s.ranges (s.contexts[t].start + i)].slot = some k ∧
    (s.slots[k].state = .ready ∨ (s.slots[k].state = .draining ∧ t ∈ s.slots[k].drainSet))) ∧
  ∀ l : LaneIx, ∀ j ∈ s.lanes[l].job, SpanUses j.tag j.slot s

/-- The intake queues hold what their ports let in, and a verdict its frame (R87, R127, R151, Table 10-1): the FIQ holds OPEN
and SECTOR frames, the MIQ SECTOR, ZERO and VOID frames; a verdict is present only with a frame at the media head whose
context is ACTIVE and READ and has room for it. -/
abbrev HeadsLawful (s : State) : Prop :=
  (s.verdict.isSome = true → ∃ q ∈ s.miq.head?, belongsToRead q s = true) ∧
  (∀ q ∈ s.fiq, q.frame.header.kind.toNat ∈ [1, 2]) ∧ ∀ q ∈ s.miq, q.frame.header.kind.toNat ∈ [2, 6, 7]

/-- The two intake heads are at rest: the head of the FIQ is a candidate for a lane (R101), and the verdict is present
exactly when the MIQ holds a frame, whose context is ACTIVE and READ and has room for it (R127). -/
abbrev AtRest (s : State) : Prop :=
  (∀ q ∈ s.fiq.head?, frontCandidate q s = true) ∧
  (s.verdict.isSome = true ↔ s.miq ≠ []) ∧
  ∀ q ∈ s.miq.head?, belongsToRead q s = true

/-- What a port's partner was last told, what waits for it and the own hold agree (R93, R99). While a HOLD or a GO is in
transmission it is what the partner was last told, and it is the pending one, unless an engine reset has come meanwhile:
then the own hold is RELEASED, with a GO pending behind a HOLD and nothing behind a GO, and stays so until the frame has
been sent, since the mark test waits for its end (log entry 26). At other times a pending HOLD
means HELD and a partner not told HOLD, a pending GO means RELEASED and a partner told HOLD, and with nothing pending the
partner was last told HOLD exactly when the port is HELD. -/
def FlowAgrees (x : Port) : Bool :=
  match x.sending with
  | some (.flow .hold) =>
    x.told == some .hold && (x.pendingFlow == some .hold && x.held || x.pendingFlow == some .go && !x.held)
  | some (.flow .go) => x.told == some .go && x.pendingFlow != some .hold && !x.held
  | _ =>
    match x.pendingFlow with
    | some .hold => x.held && x.told != some .hold
    | some .go => !x.held && x.told == some .hold
    | none => x.held == (x.told == some .hold)

/-- Both ports' flow control agrees. -/
abbrev FlowControl (s : State) : Prop := FlowAgrees s.front = true ∧ FlowAgrees s.media = true

/-- The number of COMPLETION frames of a tag in a queue. -/
def completionsOf (t : Tag) (q : List Frame) : Nat :=
  (q.filter (fun f => f.header.kind == Kind.completion && f.header.tag.toNat == t.val)).length

/-- The RESPONSE frames of a queue, by request id, in order. -/
def responseIds (q : List Frame) : List Byte :=
  (q.filter (fun f => f.header.kind == Kind.response)).map (fun f => f.header.tag)

/-- The Report Queue holds what it owes (R81, R91): one COMPLETION for each context in REPORTING and none for another, one
RESPONSE for each executed entry of the DRQ in the order of the entries, and nothing else; the executed entries of the
DRQ stand before the others; an executing directive has its entry. -/
abbrev ReportsOwed (s : State) : Prop :=
  (∀ f ∈ s.rpq, f.header.kind = Kind.response ∨ (f.header.kind = Kind.completion ∧ f.header.tag.toNat < 64)) ∧
  (∀ t : Tag, completionsOf t s.rpq = if s.contexts[t].state = .reporting then 1 else 0) ∧
  responseIds s.rpq = (s.drq.filter (fun e => e.executed)).map (fun e => e.frame.header.tag) ∧
  (∀ e ∈ s.drq.dropWhile (fun e => e.executed), e.executed = false) ∧
  (s.du.isSome = true → (firstUnexecuted s.drq).isSome = true)

/-- No transmitter is idle on an UP link while it may send (R96, R97): where no frame is in transmission, nothing is
pending for the partner, and with the peer hold clear the queues are empty. -/
abbrev TransmittersBusy (s : State) : Prop :=
  (s.front.link = .up → s.front.sending = none →
    s.front.pendingFlow = none ∧ (s.front.peerHold = false → s.rpq = [] ∧ s.fsq = [])) ∧
  (s.media.link = .up → s.media.sending = none →
    s.media.pendingFlow = none ∧ (s.media.peerHold = false → s.moq = []))

/-! ### Timers -/

/-- The deadline of a timer that runs (R57, R76, R155): an idle deadline runs in ACTIVE only. -/
def State.deadlineOf (s : State) : TimerId → Option Time
  | .autoLock => s.autoLock
  | .drain =>
    match s.du with
    | some ⟨.draining _ _ d, _⟩ => d
    | _ => none
  | .idle t => if s.contexts[t].state = .active then s.contexts[t].deadline else none

/-- One unit of a timer's limit in microseconds: 1 ms, and 100 microseconds for an idle deadline (R157, Table 9-4). -/
def TimerId.unit : TimerId → Nat
  | .autoLock | .drain => 1000
  | .idle _ => 100

/-- The order in which timers whose windows close at one moment expire (log entry 3). -/
def TimerId.rank : TimerId → Nat
  | .autoLock => 0
  | .drain => 1
  | .idle t => 2 + t.val

/-- A deadline has been passed by one unit or more. The time base wraps, and less than half of it is the past
(log entry 16). -/
abbrev Closed (now d : Time) (unit : Nat) : Prop := unit ≤ (now - d).toNat ∧ (now - d).toNat < 2 ^ 63

/-- A deadline has been passed by more than one unit: its timer is late (R157). -/
abbrev Late (now d : Time) (unit : Nat) : Prop := unit < (now - d).toNat ∧ (now - d).toNat < 2 ^ 63

/-- No running timer but one would be late at a time. -/
def NoneLate (but : TimerId) (now : Time) (s : State) : Prop :=
  ∀ x : TimerId, x ≠ but → ∀ d ∈ s.deadlineOf x, ¬ Late now d x.unit

/-- No timer runs late (R157), under limits as SET LIMITS stores them (Table 9-4). -/
def TimersInTime (s : State) : Prop :=
  (s.limits.idle < 65536 ∧ s.limits.drain < 65536 ∧ s.limits.selector ≤ 7) ∧
  ∀ x : TimerId, ∀ d ∈ s.deadlineOf x, ¬ Late s.time d x.unit

/-- No running timer has been passed by a unit or more. -/
def NoneDue (s : State) : Prop := ∀ x : TimerId, ∀ d ∈ s.deadlineOf x, ¬ Closed s.time d x.unit

/-- A running timer has been passed by a unit or more, and none that comes before it has. -/
def FirstDue (x : TimerId) (s : State) : Prop :=
  (∃ d ∈ s.deadlineOf x, Closed s.time d x.unit) ∧
  ∀ y : TimerId, y.rank < x.rank → ∀ d ∈ s.deadlineOf y, ¬ Closed s.time d y.unit

/-- The time at which an expiry is taken: the deadline, or now when it has passed (log entry 3). -/
def State.expiryAt (s : State) (d : Time) : Time := if timeRemaining s.time d = 0 then s.time else d

/-! ### Situations -/

/-- The part is not held by its reset input, and no frame that a link loss left waits to be taken at a head (log entry
10). -/
abbrev Awake (s : State) : Prop := s.inReset = false ∧ headsWait s = false

/-- The part is awake and a port is UP. -/
abbrev Listening (p : PortId) (s : State) : Prop := Awake s ∧ (s.port p).link = .up

/-- The first unexecuted entry `e` of the Directive Queue stands behind executed entries and before waiting ones. -/
abbrev Next (done : List DrqEntry) (e : DrqEntry) (rest : List DrqEntry) (s : State) : Prop :=
  s.drq = done ++ e :: rest ∧ (∀ d ∈ done, d.executed = true) ∧ e.executed = false

/-- The Directive Unit is IDLE and its next directive is undamaged and has a code and a payload length (R138, R140). -/
abbrev Ready (code len : Nat) (done : List DrqEntry) (e : DrqEntry) (rest : List DrqEntry) (s : State) : Prop :=
  Awake s ∧ s.du = none ∧ Next done e rest s ∧ e.damaged = false ∧
  (byteAt e.frame.payload 0).toNat = code ∧ e.frame.payload.length = len ∧ e.frame.header.length.toNat = len

/-- The Directive Unit is EXECUTING a task for the entry `e`; when it is silent, after a front link loss, the RESPONSE is
to be discarded (R60, R98, R138). -/
abbrev Runs (task : Task) (silent : Bool) (done : List DrqEntry) (e : DrqEntry) (rest : List DrqEntry) (s : State) : Prop :=
  Awake s ∧ s.du = some { task := task, silent := silent } ∧ Next done e rest s

/-- A parameter byte of a directive, as a number. -/
abbrev param (e : DrqEntry) (i : Nat) : Nat := (byteAt e.frame.payload i).toNat

/-- An open context whose span meets an extent (R30). -/
abbrev SpanMeets (a e : Nat) (s : State) : Prop :=
  ∃ t : Tag, s.contexts[t].state.isOpen = true ∧
    Meets s.contexts[t].start (s.contexts[t].start + s.contexts[t].count) a e

/-- A context ends without anything else to clear away: its completion is not suppressed, no lane holds a READ output of
it, no frame of it stands at an intake head, and it is in no drain set. -/
abbrev Unencumbered (t : Tag) (s : State) : Prop :=
  s.contexts[t].suppressed = false ∧
  (∀ l : LaneIx, heldRead s.lanes[l] ≠ some t) ∧
  (∀ q ∈ s.fiq.head?, frameTag q.frame ≠ t) ∧ (∀ q ∈ s.miq.head?, frameTag q.frame ≠ t) ∧
  ∀ k : SlotIx, t ∉ s.slots[k].drainSet

/-- A range gives no reason to refuse a transfer of a direction: it is not locked against it and its slot is READY
(R34, R43). -/
abbrev RangeAllows (d : Direction) (k : RangeIx) (s : State) : Prop :=
  (d = .write → s.ranges[k].writeLock = false) ∧ (d = .read → s.ranges[k].readLock = false) ∧
  ∃ n : SlotIx, s.ranges[k].slot = some n ∧ s.slots[n].state = .ready

/-- A context is in no drain set. -/
abbrev InNoDrain (t : Tag) (s : State) : Prop := ∀ k : SlotIx, t ∉ s.slots[k].drainSet

/-- A frame with a good header check and a context's tag arrives at an empty intake queue of a listening port whose heads
are at rest: it is the head at once. -/
abbrev ArrivesAlone (p : PortId) (f : Frame) (s : State) : Prop :=
  Listening p s ∧ AtRest s ∧ headerGood f = true ∧ f.header.tag.toNat ≤ 63 ∧ s.intake p = []

/-- A frame, with its damage mark, has come to the front head (R69). -/
abbrev AtFrontHead (f : Frame) (damaged : Bool) (s : State) : Prop := s.fiq.head? = some { frame := f, damaged := damaged }

/-- A frame, with its damage mark, has come to the media head, is not judged yet, and the front head is at rest: the heads
serve the front first (R73, R127; log entry 10). -/
abbrev AtMediaHead (f : Frame) (damaged : Bool) (s : State) : Prop :=
  (∀ q ∈ s.fiq.head?, frontCandidate q s = true) ∧ s.verdict = none ∧
  s.miq.head? = some { frame := f, damaged := damaged }

/-- The verdicts that take the bypass, and the read sector status of each (R132, R133). -/
abbrev Bypasses (v : Verdict) (r : ReadStatus) : Prop :=
  (v = .mismatch ∧ r = .mismatch) ∨ (v = .void ∧ r = .void) ∨ (v = .stale ∧ r = .stale) ∨ (v = .zero ∧ r = .zero)

/-- The frame at a head that waits for a lane on a side (R101). -/
abbrev Waits (side : PortId) (q : Queued) (s : State) : Prop :=
  (side = .front ∧ s.fiq.head? = some q ∧ frontCandidate q s = true) ∨
  (side = .media ∧ s.miq.head? = some q ∧ s.verdict = some .decipher ∧ belongsToRead q s = true)

/-- The Lane Dispatcher's grant (R102): the only candidate, or the one the pointer names. -/
abbrev Granted (side : PortId) (q : Queued) (s : State) : Prop :=
  Waits side q s ∧
  (s.laneTurn = (if side = .front then LaneTurn.front else .media) ∨
    ∀ q' ∈ (if side = .front then s.miq else s.fiq).head?, ¬ Waits (if side = .front then .media else .front) q' s)

/-- The reason for which a range refuses a transfer: its lock first, then an absent, EMPTY or FILLING slot, then a DRAINING
one (R34, R43, Table 4-3). -/
abbrev RangeRefuses (d : Direction) (k : RangeIx) (e : Ending) (s : State) : Prop :=
  let locked := (d = .write ∧ s.ranges[k].writeLock = true) ∨ (d = .read ∧ s.ranges[k].readLock = true)
  (e = .locked ∧ locked) ∨
  (e = .noKey ∧ ¬ locked ∧
    (s.ranges[k].slot = none ∨
      ∃ n : SlotIx, s.ranges[k].slot = some n ∧ (s.slots[n].state = .empty ∨ s.slots[n].state = .filling))) ∨
  (e = .keyChanging ∧ ¬ locked ∧ ∃ n : SlotIx, s.ranges[k].slot = some n ∧ s.slots[n].state = .draining)

/-- The first check of Table 4-3 that an OPEN fails, with its damage mark, and its status (R66). `before` and `k` are the
ranges its span touches up to the first that refuses it. -/
abbrev OpenFails (damaged : Bool) (f : Frame) (e : Ending) (before : List RangeIx) (k : RangeIx) (after : List RangeIx)
    (s : State) : Prop :=
  (e = .damaged ∧ damaged = true) ∨
  (e = .badFormat ∧ damaged = false ∧ 3 < frameFormat f) ∨
  (e = .outOfRange ∧ damaged = false ∧ frameFormat f ≤ 3 ∧ s.limits.ceiling < frameLba f + frameCount f) ∨
  (damaged = false ∧ frameFormat f ≤ 3 ∧ frameLba f + frameCount f ≤ s.limits.ceiling ∧
    touched s.ranges (frameLba f) (frameCount f) = before ++ k :: after ∧
    (∀ j ∈ before, RangeAllows (frameDirection f) j s) ∧ RangeRefuses (frameDirection f) k e s)

/-! ### Results -/

/-- The next directive is answered: its entry is executed and its RESPONSE stands last in the Report Queue. -/
def State.answered (r : Result) (data : Bytes) (done : List DrqEntry) (e : DrqEntry) (rest : List DrqEntry) (s : State) :
    State :=
  { s with
    du := none, drq := done ++ { e with executed := true } :: rest, rpq := s.rpq ++ [responseFrame e.frame r data] }

/-- The directive that runs ends: it is answered, or, in silence, its entry is freed and no RESPONSE is made (R98, R138). -/
def State.concluded (silent : Bool) (r : Result) (data : Bytes) (done : List DrqEntry) (e : DrqEntry)
    (rest : List DrqEntry) (s : State) : State :=
  if silent then { s with du := none, drq := done ++ rest } else s.answered r data done e rest

/-- A flag is set and ATTENTION follows it (R145, R149). -/
def State.flagged (f : Fin 15) (s : State) : State :=
  { s with
    events :=
      { flags := s.events.flags ||| (1#15 <<< f.val), mask := s.events.mask,
        attention := decide ((s.events.flags ||| (1#15 <<< f.val)) &&& s.events.mask ≠ 0) } }

/-- The record of a context that a cause of Table 4-5 has reached: ENDING while jobs are in flight, REPORTING
otherwise (R78, R80). -/
def Context.endedBy (e : Ending) (fail : Option Nat) (c : Context) : Context :=
  { c with
    state := if c.jobs = 0 then .reporting else .ending, ending := some e, firstFail := fail, deadline := none }

/-- An unencumbered transfer ends: its record, and, with no jobs in flight, its COMPLETION last in the Report Queue
(R78, R80, R81). -/
def State.ended (t : Tag) (e : Ending) (fail : Option Nat) (s : State) : State :=
  { s with
    contexts := s.contexts.set t (s.contexts[t].endedBy e fail),
    rpq := if s.contexts[t].jobs = 0 then s.rpq ++ [completionFrame t (s.contexts[t].endedBy e fail)] else s.rpq }

/-- A frame comes to a port's empty intake queue and leaves it again in one event: the marks are tested at depth 1 and
at depth 0 (R86, R93). -/
def State.passed (p : PortId) (s : State) : State :=
  putPort p (markTest (highMark p s.limits) (lowMark p s.limits) 0
    (markTest (highMark p s.limits) (lowMark p s.limits) 1 (s.port p))) s

/-- An intake queue's contents are replaced, without more. -/
def State.withIntake (p : PortId) (q : List Queued) (s : State) : State :=
  match p with
  | .front => { s with fiq := q }
  | .media => { s with miq := q }

/-- The marks of a port are tested at a depth (R93). -/
def State.testedAt (p : PortId) (depth : Nat) (s : State) : State :=
  putPort p (markTest (highMark p s.limits) (lowMark p s.limits) depth (s.port p)) s

/-- A context that a count of sectors or of jobs has reached: in FLUSHING with finished equal to count it becomes REPORTING
with DONE; in ENDING with no jobs in flight it becomes REPORTING, or FREE when its completion is suppressed (R72, R75,
R80, R81). It leaves its drain set with that (R56; `SlotInUseDrains` states `leaveDrain`). -/
def State.closed (t : Tag) (s : State) : State :=
  let c := s.contexts[t]
  let done : Context := { c with state := .reporting, ending := some .done, deadline := none }
  let left : Context := { c with state := .reporting, deadline := none }
  if c.state = .flushing ∧ c.finished = c.count then
    leaveDrain t { s with contexts := s.contexts.set t done, rpq := s.rpq ++ [completionFrame t done] }
  else if c.state = .ending ∧ c.jobs = 0 then
    leaveDrain t
      (if c.suppressed then { s with contexts := s.contexts.set t Context.free }
      else { s with contexts := s.contexts.set t left, rpq := s.rpq ++ [completionFrame t left] })
  else s

/-- A lane's job is over: the lane is IDLE and in no hold list, and its slot's pin count and its context's jobs in flight
have fallen by one (R108, R109). -/
def State.released (l : LaneIx) (j : Job) (s : State) : State :=
  { s with
    lanes := s.lanes.set l .idle, moqHold := s.moqHold.erase l, fsqHold := s.fsqHold.erase l,
    slots := s.slots.set j.slot { s.slots[j.slot] with pins := s.slots[j.slot].pins - 1 },
    contexts := s.contexts.set j.tag { s.contexts[j.tag] with jobs := s.contexts[j.tag].jobs - 1 } }

/-- A write output enters the MOQ: finished rises by one (R72, R124). -/
def State.emitted (t : Tag) (f : Frame) (s : State) : State :=
  { s with
    moq := s.moq ++ [f],
    contexts := s.contexts.set t { s.contexts[t] with finished := s.contexts[t].finished + 1 } }

/-- A read sector enters the FSQ: finished rises by one, its status is counted, and STALE_READ or CHECK_FAIL_READ is set
(R75, R136). -/
def State.delivered (t : Tag) (r : ReadStatus) (f : Frame) (s : State) : State :=
  let n := s.contexts[t].counts
  let counts : ReadCounts :=
    { stale := n.stale + if r = .stale then 1 else 0, checkFail := n.checkFail + if r = .checkFail then 1 else 0,
      zero := n.zero + if r = .zero then 1 else 0, void := n.void + if r = .void then 1 else 0,
      mismatch := n.mismatch + if r = .mismatch then 1 else 0 }
  let s' : State :=
    { s with
      fsq := s.fsq ++ [f],
      contexts := s.contexts.set t { s.contexts[t] with finished := s.contexts[t].finished + 1, counts := counts } }
  if r = .stale then s'.flagged Flag.staleRead
  else if r = .checkFail then s'.flagged Flag.checkFailRead
  else s'

/-- A context takes a sector (R71, R74, R76): taken rises, a READ marks the index, the deadline is set again, and at count
the context becomes FLUSHING without one. `jobs` is 1 when a lane takes it and 0 for the bypass. -/
def State.took (t : Tag) (index jobs : Nat) (s : State) : State :=
  let c := s.contexts[t]
  let full := c.taken + 1 = c.count
  { s with
    contexts := s.contexts.set t
      { c with
        taken := c.taken + 1, jobs := c.jobs + jobs,
        marks := if c.direction = .read then c.marks ||| (1#256 <<< index) else c.marks,
        deadline := if full then none else
          if s.limits.idle = 0 then none else some (s.time + BitVec.ofNat 64 (100 * s.limits.idle)),
        state := if full then .flushing else c.state } }

/-- The head frame leaves a port's intake queue: the marks are tested at the new depth, and a media head takes its verdict
with it (R86, R93, R127). -/
def State.beheaded (p : PortId) (s : State) : State :=
  match p with
  | .front => State.testedAt .front s.fiq.tail.length { s with fiq := s.fiq.tail }
  | .media => State.testedAt .media s.miq.tail.length { s with miq := s.miq.tail, verdict := none }

/-- Every lane that holds a READ output of a tag is released, lane 0 first (R79, R109). -/
def State.unread (t : Tag) (s : State) : State :=
  allLanes.foldl
    (fun x l => match x.lanes[l] with
      | .holding j _ .fsq => if j.tag = t then x.released l j else x
      | _ => x) s

/-- A transfer ends, with all that its ending clears away (R78 to R81): its record takes the status, its sector that waits at
the front head and its judged frame at the media head leave their queues, lanes that hold its READ outputs are
released, and with no jobs in flight it is closed. -/
def State.cleared (t : Tag) (e : Ending) (fail : Option Nat) (s : State) : State :=
  let ended : State :=
    { s with
      contexts := s.contexts.set t
        { s.contexts[t] with state := .ending, ending := some e, firstFail := fail, deadline := none } }
  let front := if ∃ q ∈ s.fiq.head?, q.frame.header.kind.toNat = 2 ∧ frameTag q.frame = t
    then ended.beheaded .front else ended
  let media := if s.verdict.isSome = true ∧ ∃ q ∈ s.miq.head?, frameTag q.frame = t
    then front.beheaded .media else front
  (media.unread t).closed t

/-- The transfers of a drain set that are ACTIVE or FLUSHING end ERASED, in the order of the set (R55, R57). -/
def State.cut (tags : List Tag) (s : State) : State :=
  tags.foldl (fun x t => if x.contexts[t].state.running = true then x.cleared t .erased none else x) s

/-- The job whose held output a link loss of a port discards, if it discards the lane's: a READ output of an ACTIVE or
FLUSHING context at either link's loss, and every WRITE output at the media link's (R79, R111, R112). -/
def lostJob (p : PortId) (s : State) (l : LaneIx) : Option Job :=
  match s.lanes[l] with
  | .holding j _ .fsq => if s.contexts[j.tag].state.running = true then some j else none
  | .holding j _ .moq => if p = .media then some j else none
  | _ => none

/-- The number of held outputs that a link loss discards whose jobs meet a test. -/
def lostJobs (p : PortId) (test : Job → Bool) (s : State) : Nat :=
  (allLanes.filter (fun l => match lostJob p s l with | some j => test j | none => false)).length

/-- The pin count that a link loss leaves a slot: it falls by one for each discarded output whose key the slot gave (R109,
Table 3-4). -/
def State.pinsLeft (p : PortId) (k : SlotIx) (s : State) : Nat := s.slots[k].pins - lostJobs p (fun j => j.slot == k) s

/-- The jobs in flight that a link loss leaves a context (R109). -/
def State.jobsLeft (p : PortId) (i : Tag) (s : State) : Nat := s.contexts[i].jobs - lostJobs p (fun j => j.tag == i) s

/-- What a link loss leaves of a drain (R56, R58 to R60): the contexts of the drain set that it leaves open stay in the
set and the drain goes on; when none is left the drain is complete, as `SlotInUseDrains` states. `going` and `ended` are
the entries of the Directive Queue while the directive runs on and when it has ended. -/
abbrev DrainGoesOn (p : PortId) (k : SlotIx) (goal : DrainGoal) (timer : Option Time) (silent : Bool)
    (going ended : List DrqEntry) (s t : State) : Prop :=
  let left := s.slots[k].drainSet.filter (fun i => t.contexts[i].state.isOpen)
  let bare (y : SlotState) : SlotRecord :=
    { s.slots[k] with state := y, dataKey := 0, tweakKey := 0, pins := s.pinsLeft p k, drainSet := [] }
  (left ≠ [] →
    t.slots[k] = { s.slots[k] with pins := s.pinsLeft p k, drainSet := left } ∧
    t.du = some ⟨.draining k goal timer, silent⟩ ∧ t.drq = going) ∧
  (left = [] →
    (goal = .discard → t.slots[k] = bare .empty ∧ t.du = none ∧ t.drq = ended) ∧
    ∀ n g, goal = .rekey n g →
      (s.random ≠ .failed → t.slots[k] = bare .filling ∧ t.du = some ⟨.filling k n g, silent⟩ ∧ t.drq = going) ∧
      (s.random = .failed → t.slots[k] = bare .empty ∧ t.du = none ∧ t.drq = ended))

/-- The deadline that a context takes now (R76). -/
def State.deadlineNow (s : State) : Option Time :=
  if s.limits.idle = 0 then none else some (s.time + BitVec.ofNat 64 (100 * s.limits.idle))

end Sys2Proof.Machine
end

