-- ==== Sys2Proof/Certificates/Slice0/Obligations.lean ====
section
/-! DEFINITION. The statements about the part, for the provers. A statement that gives the whole next state of a command gives
its frame with it: what the record update does not name is unchanged. `transmit` is the choice of the two transmitters at
the end of an event, which `TransmittersChoose` states; `heads` the taking of frames at the two intake heads. `Awake` says
that no frame waits to be taken at a head; what an event does otherwise is in `StepRunsTheFrontCommand`. `State.cleared` is
the ending of a transfer with all that it clears away, `State.ended` that of one with nothing else to clear away. -/

open Sys2Proof Sys2Proof.Machine

/-! ### The step, the reset input, the values after reset -/

/-- A step runs the command at the front of the queue on the state with the queue's rest. A frame that a link loss left
waiting at a head is taken in events of its own, before the next event other than a link event or a reset (log entry
10); after them none waits. With an empty queue one microsecond passes (R157; the idle step is the model's choice, log
entry 3), and nothing else happens where no timer is due; while the reset input is asserted nothing happens at all
(R156). What a timer that is due does in an idle step is in `IdleDeadlineExpires`, `AutoLockExpires` and
`SlotInUseDrains`. -/
def Obligations.StepRunsTheFrontCommand : Prop :=
  (∀ (c : Instr) (rest : List Instr) (s : State), step { s with pending := c :: rest } = exec c { s with pending := rest }) ∧
  (∀ (c : Instr) (s : State),
    c ∉ [Instr.powerOn, .powerOnResetAsserted, .frontLinkDown, .frontLinkUp, .mediaLinkDown, .mediaLinkUp] →
    s.inReset = false → headsWait s = true → exec c s = exec c (transmit (heads s))) ∧
  (∀ s : State, s.inReset = false → headsWait s = true → tick s = tick (transmit (heads s))) ∧
  (∀ s : State, headsWait (transmit (heads s)) = false) ∧
  (∀ s : State, s.pending = [] → step s = .next (tick s)) ∧
  (∀ s : State, s.inReset = true → tick s = s) ∧
  (∀ s : State, Awake s → NoneDue s → tick s = { s with time := s.time + 1 })

/-- The values after reset that the manual gives: R37, R61, R83, R94, R99, R113, R147, R150, R155 to R157, Table 9-4. -/
def Obligations.ResetValues : Prop :=
  let s := State.reset
  s.inReset = false ∧ s.time = 0 ∧ s.autoLock = none ∧ s.frontTurn = .rpq ∧ s.laneTurn = .front ∧
  (∀ p : PortId, (s.port p).link = .down ∧ (s.port p).held = false ∧ (s.port p).peerHold = false ∧
    (s.port p).pendingFlow = none ∧ (s.port p).told = none ∧ (s.port p).sending = none) ∧
  (s.fiq = [] ∧ s.miq = [] ∧ s.drq = [] ∧ s.moq = [] ∧ s.fsq = [] ∧ s.rpq = [] ∧ s.verdict = none) ∧
  (∀ k : RangeIx, s.ranges[k] =
    { enabled := decide (k = 0), start := 0, length := 0, slot := none, readLock := false, writeLock := false,
      metaCipher := false, zeroMark := false, linkLock := false, checkMask := 0, tweakBase := 0 }) ∧
  (∀ k : SlotIx, s.slots[k] =
    { state := .empty, dataKey := 0, tweakKey := 0, generation := 0, pins := 0, drainSet := [] }) ∧
  (∀ e : EntryIx, s.wrapping[e] = none) ∧ s.random = .warming ∧
  (∀ t : Tag, s.contexts[t] =
    { state := .free, direction := .write, start := 0, count := 1, format := 0, taken := 0, finished := 0, jobs := 0,
      marks := 0, ending := none, firstFail := none, counts := ⟨0, 0, 0, 0, 0⟩, deadline := none, suppressed := false }) ∧
  (∀ l : LaneIx, s.lanes[l] = .idle) ∧ s.moqHold = [] ∧ s.fsqHold = [] ∧ s.du = none ∧
  s.limits =
    { ceiling := 1099511627776, fiqHigh := 12, fiqLow := 4, miqHigh := 12, miqLow := 4, idle := 10000, drain := 5000,
      selector := 0 } ∧
  s.events = { flags := 1#15, mask := 0x7FFF#15, attention := true }

/-- The release of the reset input is power-on, whatever came before; while it is asserted every block holds its power-on
value (R156; that the held values are those right after power-on is the model's reading, log entry 5), and no other
command does anything. -/
def Obligations.ResetInputHoldsThePart : Prop :=
  ∀ s : State,
    exec .powerOn s = .next { State.reset with pending := s.pending } ∧
    exec .powerOnResetAsserted s = .next { State.reset with inReset := true, pending := s.pending } ∧
    (s.inReset = true → ∀ c : Instr, c ≠ .powerOn → c ≠ .powerOnResetAsserted → exec c s = .next s)

/-- The state after reset meets every law that a step keeps. -/
def Obligations.ResetMeetsEveryLaw : Prop :=
  AttentionTells State.reset ∧ RangesDisjoint State.reset ∧ QueuesBounded State.reset ∧ LaneAccounts State.reset ∧
  SlotsAgree State.reset ∧ HeadsLawful State.reset ∧ AtRest State.reset ∧ FlowControl State.reset ∧
  ReportsOwed State.reset ∧ TransmittersBusy State.reset ∧ TimersInTime State.reset ∧ KeysHeld State.reset ∧
  HoldListsAgree State.reset

/-! ### Laws that every step keeps -/

/-- ATTENTION is asserted if and only if some flag is set whose enable bit is set (R149). -/
def Obligations.AttentionFollowsTheFlags : Prop := StepKeeps AttentionTells

/-- Enabled ranges 1 to 15 never overlap and lie below the ceiling; range 0 stays enabled and without bounds (R22, R23). -/
def Obligations.RangesStayDisjoint : Prop := StepKeeps RangesDisjoint

/-- No queue of Table 5-1 outgrows its capacity (R86); the Report Queue follows from `ReportsStayOwed`. -/
def Obligations.QueuesStayBounded : Prop := StepKeeps QueuesBounded

/-- The pin counts and the jobs in flight are the lane jobs in flight, and every context's counters agree (R41, R63). The
hold lists name the lanes that are HOLDING, once each, and a READ output is held for an ACTIVE or FLUSHING context only
(R107 to R112). -/
def Obligations.LaneAccountsBalance : Prop := StepKeeps LaneAccounts ∧ StepKeeps HoldListsAgree

/-- The slots are FILLING and DRAINING exactly as the Directive Unit's task says, a slot without keys holds zeros, and drain
sets hold open contexts (R39, R40, R42, R56). Every key in use is held (`KeysHeld`): the ranges of an open transfer name
slots that are READY, or DRAINING with the transfer in the drain set. By that law a slot in EMPTY or FILLING has pin
count zero (R41; a fill's end does not write the count, log entry 19), and so has a slot whose drain is complete, which is
EMPTY or FILLING then; it has it when the drain set would be formed empty, and when no context of the set has a lane job
left (R56). The range of every candidate for a lane names a slot that is READY or DRAINING, so that no job start stops
(R104). -/
def Obligations.SlotsFollowTheDirectiveUnit : Prop :=
  StepKeeps SlotsAgree ∧ StepKeeps KeysHeld ∧
  ∀ s : State, KeysHeld s →
    (∀ k : SlotIx,
      (s.slots[k].state = .empty ∨ s.slots[k].state = .filling → s.slots[k].pins = 0) ∧
      (s.slots[k].state = .ready → drainSetOf k s = [] → s.slots[k].pins = 0) ∧
      (s.slots[k].state = .draining → (∀ t ∈ s.slots[k].drainSet, s.contexts[t].jobs = 0) → s.slots[k].pins = 0)) ∧
    (∀ side q, Waits side q s → ∃ k : SlotIx,
      s.ranges[lookup s.ranges (s.contexts[frameTag q.frame].start + q.frame.header.index.toNat)].slot = some k ∧
      (s.slots[k].state = .ready ∨ s.slots[k].state = .draining)) ∧
    ∃ t, exec .laneJobStart s = .next t

/-- The intake queues never hold a frame of another kind, and a verdict never stands without its frame (R87, R127, R151).
Under that law every step other than a link event leaves both heads at rest: nothing that could be disposed of stands at
a head (R73, R101, R127; that the heads are served within the event that brings a frame to them is the model's reading,
log entry 10), and a link-up event keeps heads at rest. A link-down event takes no frame but the one that waited at a
head; what is behind it is taken with the next event (`StepRunsTheFrontCommand`). Heads at rest take nothing. What the
heads do with a frame that has come forward is in the statements about arrivals, one turn of the head each. -/
def Obligations.HeadsComeToRest : Prop :=
  StepKeeps HeadsLawful ∧
  (∀ s t : State, HeadsLawful s → s.inReset = false →
    (∀ c ∈ s.pending.head?, c ∉ [Instr.frontLinkDown, .frontLinkUp, .mediaLinkDown, .mediaLinkUp]) →
    step s = .next t → AtRest t) ∧
  (∀ s t : State, AtRest s → (∃ c ∈ s.pending.head?, c = .frontLinkUp ∨ c = .mediaLinkUp) → step s = .next t → AtRest t) ∧
  ∀ s : State, AtRest s → heads s = s

/-- The flow control that the part sends agrees with what it holds: no partner is told HOLD or GO twice running (R93,
R99; the fate of a flow frame in transmission at an engine reset is log entry 12, and that the marks are not tested before
its end is the model's choice, log entry 26). -/
def Obligations.FlowControlStaysInStep : Prop := StepKeeps FlowControl

/-- The Report Queue holds one COMPLETION for each context in REPORTING and one RESPONSE for each executed directive, and
nothing else (R81, R91), so it never holds more than 72 frames in a state whose DRQ holds at most eight entries (R86). -/
def Obligations.ReportsStayOwed : Prop :=
  StepKeeps ReportsOwed ∧ ∀ s : State, ReportsOwed s → s.drq.length ≤ 8 → s.rpq.length ≤ 72

/-- No transmitter idles while it may send (R96, R97); that it chooses at the end of every event, after all its other
effects, is the model's reading (log entry 11). -/
def Obligations.TransmittersStayBusy : Prop := StepKeeps TransmittersBusy

/-! ### The sector transform and the wrapped key record -/

/-- R9: the double of a tweak, read as a number with byte 0 least significant; doubling is a permutation; zero doubles to
zero; the sequence begins with tweak 0, and each tweak is the double of the one before, so that a zero tweak 0 makes every
tweak zero. -/
def Obligations.TweaksAreDoubled : Prop :=
  (∀ t : Block, leNat (bytesOfBlock (double t)) =
    if 2 ^ 127 ≤ leNat (bytesOfBlock t) then (2 * leNat (bytesOfBlock t)) % 2 ^ 128 ^^^ 0x87
    else (2 * leNat (bytesOfBlock t)) % 2 ^ 128) ∧
  Function.Bijective double ∧ double 0 = 0 ∧
  (∀ t : Block, tweakAt t 0 = t) ∧
  (∀ (t : Block) (j : Nat), tweakAt t (j + 1) = double (tweakAt t j)) ∧ ∀ j : Nat, tweakAt 0 j = 0

/-- R8, R11 to R14: a sector's two regions are computed under its data key, with tweak 0 the forward transform of the seed
under its tweak key in both directions; every full block goes under its own tweak, and, where the region has an 8-byte
tail, the last full block and the tail go by tail stealing, forward with tweak q − 1 first and inverse with tweak q
first. `p` is the block transform under the data key. -/
def Obligations.BlocksAndTailUnderTheirTweaks : Prop :=
  (∀ (i : InputSet) (plain region clear : Bytes),
    let d := Config.blockTransform i.dataKey
    let t0 := Config.blockTransform i.tweakKey (seed i)
    (forwardSector i plain).region = cipherRegion d t0 (plain.take (cipheredLength i.metaCipher i.format)) ∧
    (forwardSector i plain).clear = plain.drop (cipheredLength i.metaCipher i.format) ∧
    inverseSector i region clear = decipherRegion d t0 region ++ clear) ∧
  (∀ (p : Equiv.Perm Block) (t0 : Block) (region : Bytes) (q : Nat),
    (region.length = 16 * q ∨ (region.length = 16 * q + 8 ∧ 1 ≤ q) →
      (cipherRegion p t0 region).length = region.length ∧ (decipherRegion p t0 region).length = region.length) ∧
    (region.length = 16 * q →
      ∀ j < q,
        slice (cipherRegion p t0 region) (16 * j) 16 =
          bytesOfBlock (p (blockOfBytes (slice region (16 * j) 16) ^^^ tweakAt t0 j) ^^^ tweakAt t0 j) ∧
        slice (decipherRegion p t0 region) (16 * j) 16 =
          bytesOfBlock (p.symm (blockOfBytes (slice region (16 * j) 16) ^^^ tweakAt t0 j) ^^^ tweakAt t0 j)) ∧
    (region.length = 16 * q + 8 → 1 ≤ q →
      (∀ j < q - 1,
        slice (cipherRegion p t0 region) (16 * j) 16 =
          bytesOfBlock (p (blockOfBytes (slice region (16 * j) 16) ^^^ tweakAt t0 j) ^^^ tweakAt t0 j) ∧
        slice (decipherRegion p t0 region) (16 * j) 16 =
          bytesOfBlock (p.symm (blockOfBytes (slice region (16 * j) 16) ^^^ tweakAt t0 j) ^^^ tweakAt t0 j)) ∧
      (let last := slice region (16 * (q - 1)) 16
       let tail := slice region (16 * q) 8
       let mid := bytesOfBlock (p (blockOfBytes last ^^^ tweakAt t0 (q - 1)) ^^^ tweakAt t0 (q - 1))
       let stolen := blockOfBytes (tail ++ mid.drop 8)
       slice (cipherRegion p t0 region) (16 * (q - 1)) 24 =
         bytesOfBlock (p (stolen ^^^ tweakAt t0 q) ^^^ tweakAt t0 q) ++ mid.take 8) ∧
      (let last := slice region (16 * (q - 1)) 16
       let tail := slice region (16 * q) 8
       let mid := bytesOfBlock (p.symm (blockOfBytes last ^^^ tweakAt t0 q) ^^^ tweakAt t0 q)
       let stolen := blockOfBytes (tail ++ mid.drop 8)
       slice (decipherRegion p t0 region) (16 * (q - 1)) 24 =
         bytesOfBlock (p.symm (stolen ^^^ tweakAt t0 (q - 1)) ^^^ tweakAt t0 (q - 1)) ++ mid.take 8)))

/-- R3 to R5, R15 to R18: ciphering a sector and deciphering the result under the same input set returns the sector byte
for byte, in every format and for either value of m; distinct regions give distinct results, and the lengths are those of
R5. The check word covers the data bytes and the metadata bytes that the mask selects, byte by byte as R16 gives it; the
zero test covers every byte. The lengths of every format and, for either META_CIPHER, the bit m, clamped to 0 where there
is no metadata, the ciphered length and the format byte are those of Tables 1-2 and 1-3. -/
def Obligations.SectorRoundTrip : Prop :=
  (∀ x ∈ ([(0, 512, 512), (1, 512, 520), (2, 4096, 4096), (3, 4096, 4104)] : List (FormatCode × Nat × Nat)),
    dataLength x.1 = x.2.1 ∧ sectorLength x.1 = x.2.2) ∧
  (∀ x ∈ ([(0, false, false, 512, 0x00), (0, true, false, 512, 0x00), (1, false, false, 512, 0x01), (1, true, true, 520, 0x05),
      (2, false, false, 4096, 0x02), (2, true, false, 4096, 0x02), (3, false, false, 4096, 0x03), (3, true, true, 4104, 0x07)] :
        List (FormatCode × Bool × Bool × Nat × Byte)),
    metaBit x.2.1 x.1 = x.2.2.1 ∧ cipheredLength x.2.1 x.1 = x.2.2.2.1 ∧ formatByte x.2.1 x.1 = x.2.2.2.2) ∧
  (∀ (i : InputSet) (plain : Bytes), plain.length = sectorLength i.format →
    inverseSector i (forwardSector i plain).region (forwardSector i plain).clear = plain ∧
    (forwardSector i plain).region.length = cipheredLength i.metaCipher i.format ∧
    (forwardSector i plain).clear.length = sectorLength i.format - cipheredLength i.metaCipher i.format) ∧
  (∀ (i : InputSet) (a b : Bytes), a.length = cipheredLength i.metaCipher i.format →
    b.length = cipheredLength i.metaCipher i.format →
    cipherRegion (Config.blockTransform i.dataKey) (sectorTweak i) a =
      cipherRegion (Config.blockTransform i.dataKey) (sectorTweak i) b → a = b) ∧
  (∀ (i : InputSet) (plain : Bytes),
    let d := dataLength i.format
    let chosen := (List.range (sectorLength i.format - d)).filter (fun n => i.checkMask.getLsbD n)
    (forwardSector i plain).check = check32 (plain.take d ++ chosen.map (fun n => byteAt (plain.drop d) n)) ∧
    ((forwardSector i plain).zero = true ↔ ∀ b ∈ plain, b = 0)) ∧
  (let shift (r : BitVec 32) := (r >>> 1) ^^^ (if r.toNat % 2 = 1 then 0x82F63B78#32 else 0#32)
   check32 [] = 0 ∧ ∀ (bs : Bytes) (b : Byte),
     check32 (bs ++ [b]) = Nat.repeat shift 8 (check32 bs ^^^ 0xFFFFFFFF#32 ^^^ b.setWidth 32) ^^^ 0xFFFFFFFF#32)

/-- R6 and R7: the tweak offset of an LBA in the range that the lookup returns, never negative, reduced modulo 2^64, and
distinct for distinct LBAs of one range; the seed byte by byte (Table 1-4), and equal seeds only from equal offsets,
generations, range indices and format bytes. -/
def Obligations.OffsetsAndSeeds : Prop :=
  (∀ (s : State) (l : Nat) (slot : SlotRecord) (f : FormatCode), RangesDisjoint s → l < s.limits.ceiling →
    let r := lookup s.ranges l
    let start := if r = 0 then 0 else s.ranges[r].start
    start ≤ l ∧ l - start < 2 ^ 40 ∧
    (tweakOffset (inputSet l r s.ranges[r] slot f)).toNat = (l - start + s.ranges[r].tweakBase.toNat) % 2 ^ 64) ∧
  (∀ (s : State) (a b : Nat) (slot : SlotRecord) (f : FormatCode), RangesDisjoint s → a < s.limits.ceiling →
    b < s.limits.ceiling → lookup s.ranges a = lookup s.ranges b →
    tweakOffset (inputSet a (lookup s.ranges a) s.ranges[lookup s.ranges a] slot f) =
      tweakOffset (inputSet b (lookup s.ranges b) s.ranges[lookup s.ranges b] slot f) → a = b) ∧
  (∀ i : InputSet,
    bytesOfBlock (seed i) =
      leBytes 8 (tweakOffset i).toNat ++ leBytes 2 i.generation.toNat ++
        [BitVec.ofNat 8 i.range.val, formatByte i.metaCipher i.format] ++ [0, 0, 0, 0]) ∧
  (∀ i j : InputSet, seed i = seed j →
    tweakOffset i = tweakOffset j ∧ i.generation = j.generation ∧ i.range = j.range ∧
      formatByte i.metaCipher i.format = formatByte j.metaCipher j.format)

/-- R49 to R52: a wrapped key record is 96 bytes of version 1 that carries its generation and nonce in clear. Its ciphered
keys are the two keys, data key first, under half A, with tweak 0 the forward transform under half B of the header
(R50); its check block is the last of a chain of five blocks under half B that begins with zero (R51). Opened under the
wrapping key that made it, it gives the two keys and the generation; with any other check block it gives nothing. -/
def Obligations.WrappedRecordRoundTrip : Prop :=
  (∀ (w : WrappingKey) (g : Generation) (nonce : Nonce) (dataKey tweakKey : Key),
    let record := makeRecord w g nonce dataKey tweakKey
    record.length = 96 ∧ recordVersion record = 1 ∧ field record 1 2 = g.toNat ∧ field record 3 13 = nonce.toNat ∧
    (let a := Config.blockTransform w.halfA
     let t0 := Config.blockTransform w.halfB (blockOfBytes (record.take 16))
     let keys := bytesOfKey dataKey ++ bytesOfKey tweakKey
     slice record 16 64 = cipherRegion a t0 keys ∧ keys.length = 64 ∧
     ∀ j < 4, slice record (16 + 16 * j) 16 =
       bytesOfBlock (a (blockOfBytes (slice keys (16 * j) 16) ^^^ tweakAt t0 j) ^^^ tweakAt t0 j)) ∧
    (let b := Config.blockTransform w.halfB
     let x (j : Nat) : Block := blockOfBytes (slice record (16 * j) 16)
     slice record 80 16 = bytesOfBlock (b (b (b (b (b (0 ^^^ x 0) ^^^ x 1) ^^^ x 2) ^^^ x 3) ^^^ x 4))) ∧
    openRecord w record = some (dataKey, tweakKey, g) ∧
    ∀ other : Bytes, other.length = 16 → other ≠ slice record 80 16 → openRecord w (record.take 80 ++ other) = none) ∧
  (∀ k : Key, (bytesOfKey k).length = 32 ∧ leNat (bytesOfKey k) = k.toNat) ∧
  (∀ (w : WrappingKey) (record : Bytes) (dataKey tweakKey : Key) (g : Generation), record.length = 96 →
    openRecord w record = some (dataKey, tweakKey, g) →
    field record 1 2 = g.toNat ∧
    let a := Config.blockTransform w.halfA
    let t0 := Config.blockTransform w.halfB (blockOfBytes (record.take 16))
    bytesOfKey dataKey ++ bytesOfKey tweakKey = decipherRegion a t0 (slice record 16 64))

/-! ### Frame layouts -/

/-- Tables 11-1 and 11-4a, R88, R89, R159: the place of every field in the 16 bytes of a header and the 8 of a trailer, least
significant byte first, and that the fields and the bytes determine each other; the bits of a header from which the
format, the direction, the LBA, the count and the tag are read; the header check byte by byte, and what the header check
and the payload check of a frame cover. -/
def Obligations.HeadersAndTrailersRoundTrip : Prop :=
  (∀ h : Header, headerBytes h =
    [h.kind, h.tag, h.index, h.form] ++ leBytes 5 h.lba.toNat ++ [h.countLess1] ++ leBytes 2 h.length.toNat ++
      leBytes 2 h.unused.toNat ++ leBytes 2 h.check.toNat) ∧
  (∀ t : Trailer, trailerBytes t = leBytes 4 t.check.toNat ++ leBytes 2 t.stamp.toNat ++ [t.range, t.form]) ∧
  (∀ f : Frame, frameBytes f = headerBytes f.header ++ f.payload ++ leBytes 4 f.check.toNat) ∧
  (∀ n v : Nat, (leBytes n v).length = n ∧ ∀ i < n, (byteAt (leBytes n v) i).toNat = v / 256 ^ i % 256) ∧
  (∀ f : Frame,
    let form := f.header.form.toNat
    frameFormat f = form % 8 ∧ frameDirection f = (if form < 128 then .write else .read) ∧
    frameLba f = f.header.lba.toNat ∧ frameCount f = f.header.countLess1.toNat + 1 ∧
    (f.header.tag.toNat ≤ 63 → (frameTag f).val = f.header.tag.toNat) ∧
    (headerGood f = true ↔ f.header.check = check16 ((headerBytes f.header).take 14)) ∧
    (payloadDamaged f = true ↔ f.check ≠ check32 f.payload)) ∧
  (let shift (r : BitVec 16) := (r <<< 1) ^^^ (if 2 ^ 15 ≤ r.toNat then 0x1021#16 else 0#16)
   check16 [] = 0xFFFF#16 ∧ ∀ (bs : Bytes) (b : Byte),
     check16 (bs ++ [b]) = Nat.repeat shift 8 (check16 bs ^^^ (b.setWidth 16 <<< 8))) ∧
  (∀ h : Header, (headerBytes h).length = 16 ∧ headerOfBytes (headerBytes h) = h) ∧
  (∀ bs : Bytes, bs.length = 16 → headerBytes (headerOfBytes bs) = bs) ∧
  (∀ t : Trailer, (trailerBytes t).length = 8 ∧ trailerOfBytes (trailerBytes t) = t) ∧
  (∀ bs : Bytes, bs.length = 8 → trailerBytes (trailerOfBytes bs) = bs)

/-- R82, R95, R106, R119 to R123, R132, R135, R139, R158, R161: the frames that the part builds. A write job makes a ZERO
frame that carries the trailer alone when ZERO_MARK is set and every byte is 00h, and otherwise a SECTOR frame of region,
clear metadata and trailer; a read job makes a front SECTOR with the recovered bytes, GOOD or CHECK_FAIL by the check
word. A front SECTOR of any read sector status, the four of the bypass among them, carries the code of Table 11-6 for it,
the tag, the index, the expected LBA, the format and the count (Table 11-3). A HOLD or GO is its kind code and nothing
else. A COMPLETION carries the context's tag, status, format, direction, start and count, and its payload the finished count,
the first failing index and the five read status counts, zero for a WRITE (Tables 4-6, 11-3, 11-6 and 11-9a). A
RESPONSE carries the request id and the result code, and its payload the directive code and, for OK alone, the data
(Tables 9-1, 11-3 and 11-7). Every header states its payload's length and has its unused bytes zero, and both checks of
every frame pass. -/
def Obligations.OutputFrames : Prop :=
  let whole (f : Frame) := f.header.length.toNat = f.payload.length % 2 ^ 16 ∧ f.header.unused = 0 ∧
    headerGood f = true ∧ payloadDamaged f = false
  (∀ (j : Job) (plain : Bytes) (c : Context), j.sector = .plain plain →
    let r := forwardSector j.inputs plain
    let trailer := trailerBytes
      { check := r.check, stamp := j.inputs.generation, range := BitVec.ofNat 8 j.inputs.range.val,
        form := formatByte j.inputs.metaCipher j.inputs.format }
    let zero := j.inputs.zeroMark = true ∧ ∀ b ∈ plain, b = 0
    let f := outputFrame j c
    (zero → f.header.kind.toNat = 6 ∧ f.payload = trailer ∧ f.header.length.toNat = 8) ∧
    (¬ zero → f.header.kind.toNat = 2 ∧ f.payload = r.region ++ r.clear ++ trailer ∧
      (plain.length = sectorLength j.inputs.format →
        f.header.length.toNat = sectorLength j.inputs.format + 8)) ∧
    f.header.tag.toNat = j.tag.val ∧ f.header.index.toNat = j.index % 256 ∧ frameLba f = j.inputs.lba % 2 ^ 40 ∧
    f.header.form.toNat = c.format.val ∧ f.header.countLess1.toNat = (c.count - 1) % 256 ∧ whole f) ∧
  (∀ (j : Job) (region clear : Bytes) (t : Trailer) (c : Context), j.sector = .ciphered region clear t →
    let plain := inverseSector j.inputs region clear
    let good := sectorCheck j.inputs.format j.inputs.checkMask plain = t.check
    let f := outputFrame j c
    (good → f.header.form.toNat = c.format.val + 128 ∧ outputStatus f = .good) ∧
    (¬ good → f.header.form.toNat = c.format.val + 8 + 128 ∧ outputStatus f = .checkFail) ∧
    f.payload = plain ∧ f.header.kind.toNat = 2 ∧ f.header.tag.toNat = j.tag.val ∧
    f.header.index.toNat = j.index % 256 ∧ frameLba f = (c.start + j.index) % 2 ^ 40 ∧
    f.header.countLess1.toNat = (c.count - 1) % 256 ∧
    (region.length = cipheredLength j.inputs.metaCipher j.inputs.format →
      clear.length = sectorLength j.inputs.format - cipheredLength j.inputs.metaCipher j.inputs.format →
      f.header.length.toNat = sectorLength j.inputs.format) ∧ whole f) ∧
  (∀ (t : Tag) (c : Context) (i : Nat) (r : ReadStatus) (sector : Bytes),
    let f := readFrame t c i r sector
    f.header.kind.toNat = 2 ∧ f.header.tag.toNat = t.val ∧ f.header.index.toNat = i % 256 ∧
    f.header.form.toNat = c.format.val + 128 + 8 *
      (match r with | .good => 0 | .checkFail => 1 | .stale => 2 | .zero => 3 | .void => 4 | .mismatch => 5) ∧
    frameLba f = (c.start + i) % 2 ^ 40 ∧ f.header.countLess1.toNat = (c.count - 1) % 256 ∧ f.payload = sector ∧
    whole f) ∧
  (∀ x : Flow,
    let f := flowFrame x
    f.header.kind.toNat = (match x with | .hold => 8 | .go => 9) ∧ f.header.tag = 0 ∧ f.header.index = 0 ∧
    f.header.form = 0 ∧ f.header.lba = 0 ∧ f.header.countLess1 = 0 ∧ f.payload = [] ∧ whole f) ∧
  (∀ (t : Tag) (c : Context) (e : Ending), c.ending = some e →
    let f := completionFrame t c
    let n : ReadCounts := if c.direction = .read then c.counts else ⟨0, 0, 0, 0, 0⟩
    f.header.kind.toNat = 4 ∧ f.header.tag.toNat = t.val ∧
    f.header.index.toNat =
      (match e with
        | .done => 0 | .locked => 1 | .noKey => 2 | .keyChanging => 3 | .outOfRange => 4 | .badFormat => 5
        | .badLength => 6 | .sequence => 7 | .damaged => 8 | .overrun => 9 | .timeout => 10 | .abandoned => 11
        | .erased => 12 | .tagReuse => 13 | .mediaLost => 14) ∧
    f.header.form.toNat = c.format.val + (if c.direction = .read then 128 else 0) ∧
    frameLba f = c.start % 2 ^ 40 ∧ f.header.countLess1.toNat = (c.count - 1) % 256 ∧
    f.header.length.toNat = 14 ∧ f.payload.length = 14 ∧ field f.payload 0 2 = c.finished % 2 ^ 16 ∧
    (byteAt f.payload 2).toNat = (if c.firstFail.isSome = true then 1 else 0) ∧
    (byteAt f.payload 3).toNat = c.firstFail.getD 0 % 256 ∧
    [4, 6, 8, 10, 12].map (fun i => field f.payload i 2) =
      [n.stale, n.checkFail, n.zero, n.void, n.mismatch].map (fun x => x % 2 ^ 16) ∧ whole f) ∧
  (∀ (d : Frame) (r : Result) (data : Bytes),
    let f := responseFrame d r data
    f.header.kind.toNat = 5 ∧ f.header.tag = d.header.tag ∧
    f.header.index.toNat =
      (match r with
        | .ok => 0 | .badParam => 1 | .damaged => 2 | .rangeBusy => 3 | .overlap => 4 | .outOfRange => 5
        | .rangeConflict => 6 | .slotState => 7 | .sameGeneration => 8 | .noWrap => 9 | .noRandom => 10
        | .randomFailed => 11 | .badBlob => 12 | .wrapCheck => 13 | .notOpen => 14) ∧
    f.header.form = 0 ∧ f.header.lba = 0 ∧ f.header.countLess1 = 0 ∧
    (d.payload = [] → f.payload.head? = some 0) ∧ (d.payload ≠ [] → f.payload.head? = d.payload.head?) ∧
    f.payload.tail = (if r = .ok then data else []) ∧ whole f)

/-- Table 11-8: the length of every view, and the value at every offset of it. A deadline that counts 2^63 microseconds or
more ahead is one that has passed around the wrap of the time base, with no time remaining (log entry 16). -/
def Obligations.ViewLayouts : Prop :=
  (∀ s : State,
    let v := engineView s
    let port (i : Nat) (x : Port) :=
      ((byteAt v i).getLsbD 0 = true ↔ x.link = .up) ∧ (byteAt v i).getLsbD 1 = x.held ∧
      (byteAt v i).getLsbD 2 = x.peerHold ∧
      (byteAt v i).toNat / 8 = (match x.pendingFlow with | none => 0 | some .hold => 1 | some .go => 2)
    v.length = 15 ∧ port 0 s.front ∧ port 1 s.media ∧
    (byteAt v 2).toNat = (match s.random with | .warming => 0 | .ready => 1 | .failed => 2) ∧
    (QueuesBounded s → s.rpq.length ≤ 72 →
      [3, 4, 5, 6, 7, 8].map (fun i => (byteAt v i).toNat) =
        [s.fiq.length, s.miq.length, s.drq.length, s.moq.length, s.fsq.length, s.rpq.length]) ∧
    (∀ l : LaneIx, (byteAt v 9).toNat / 4 ^ l.val % 4 =
      (match s.lanes[l] with | .idle => 0 | .running _ => 1 | .holding _ _ _ => 2)) ∧
    ((byteAt v 10).getLsbD 0 = true ↔ s.laneTurn = .media) ∧ (byteAt v 10).getLsbD 1 = s.events.attention ∧
    (byteAt v 10).toNat < 4 ∧
    field v 11 2 = s.events.flags.toNat ∧ field v 13 2 = s.events.mask.toNat) ∧
  (∀ (k : RangeIx) (r : RangeRecord),
    let v := rangeView k r
    v.length = 23 ∧ (byteAt v 0).toNat = k.val ∧
    (byteAt v 1).toNat = (match r.slot with | none => 255 | some n => n.val) ∧
    ((byteAt v 2).getLsbD 0 = r.readLock ∧ (byteAt v 2).getLsbD 1 = r.writeLock ∧
      (byteAt v 2).getLsbD 2 = r.metaCipher ∧ (byteAt v 2).getLsbD 3 = r.zeroMark ∧
      (byteAt v 2).getLsbD 4 = r.linkLock ∧ (byteAt v 2).getLsbD 5 = false ∧ (byteAt v 2).getLsbD 6 = false ∧
      (byteAt v 2).getLsbD 7 = r.enabled) ∧
    byteAt v 3 = r.checkMask ∧ field v 4 5 = r.start % 2 ^ 40 ∧ field v 9 6 = r.length % 2 ^ 48 ∧
    field v 15 8 = r.tweakBase.toNat) ∧
  (∀ (k : SlotIx) (s : State),
    let v := slotView k s
    v.length = 7 ∧ (byteAt v 0).toNat = k.val ∧
    (byteAt v 1).toNat = (match s.slots[k].state with | .empty => 0 | .filling => 1 | .ready => 2 | .draining => 3) ∧
    field v 2 2 = s.slots[k].generation.toNat ∧ (byteAt v 4).toNat = s.slots[k].pins % 256 ∧
    (byteAt v 5).toNat =
      (Finset.univ.filter (fun j : RangeIx => s.ranges[j].enabled = true ∧ s.ranges[j].slot = some k)).card ∧
    (byteAt v 6).toNat = s.slots[k].drainSet.length % 256) ∧
  (∀ (t : Tag) (now : Time) (c : Context),
    let v := contextView t now c
    v.length = 64 ∧ (byteAt v 0).toNat = t.val ∧
    (byteAt v 1).toNat =
      (match c.state with | .free => 0 | .active => 1 | .flushing => 2 | .ending => 3 | .reporting => 4) ∧
    (byteAt v 2).toNat = (match c.direction with | .write => 0 | .read => 1) ∧ (byteAt v 3).toNat = c.format.val ∧
    field v 4 5 = c.start % 2 ^ 40 ∧ (byteAt v 9).toNat = (c.count - 1) % 256 ∧
    field v 10 2 = c.taken % 2 ^ 16 ∧ field v 12 2 = c.finished % 2 ^ 16 ∧ (byteAt v 14).toNat = c.jobs % 256 ∧
    (byteAt v 15).toNat = (match c.ending with | none => 255 | some e => endingCode e) ∧
    ((byteAt v 16).getLsbD 0 = c.firstFail.isSome ∧ (byteAt v 16).getLsbD 1 = c.deadline.isSome ∧
      (byteAt v 16).getLsbD 2 = c.suppressed ∧ (byteAt v 16).toNat < 8) ∧
    (byteAt v 17).toNat = c.firstFail.getD 0 % 256 ∧
    [18, 20, 22, 24, 26].map (fun i => field v i 2) =
      [c.counts.stale, c.counts.checkFail, c.counts.zero, c.counts.void, c.counts.mismatch].map
        (fun x => x % 2 ^ 16) ∧
    (c.deadline = none → field v 28 4 = 0) ∧
    (∀ d, c.deadline = some d → (d - now).toNat < 2 ^ 63 → field v 28 4 = (d - now).toNat % 2 ^ 32) ∧
    (∀ d, c.deadline = some d → 2 ^ 63 ≤ (d - now).toNat → field v 28 4 = 0) ∧
    ∀ i < 256, (byteAt v (32 + i / 8)).getLsbD (i % 8) = c.marks.getLsbD i) ∧
  (∀ (l : Limits) (mask : BitVec 15),
    let v := limitsView l mask
    v.length = 17 ∧ field v 0 6 = l.ceiling % 2 ^ 48 ∧
    [6, 7, 8, 9].map (fun i => (byteAt v i).toNat) =
      [l.fiqHigh, l.fiqLow, l.miqHigh, l.miqLow].map (fun x => x % 256) ∧
    field v 10 2 = l.idle % 2 ^ 16 ∧ field v 12 2 = l.drain % 2 ^ 16 ∧ (byteAt v 14).toNat = l.selector % 256 ∧
    field v 15 2 = mask.toNat)

/-! ### Ranges read -/

/-- R24: below the ceiling the lookup returns the one enabled range 1 to 15 that holds the LBA, and 0 when none does. -/
def Obligations.LookupFindsTheOneRange : Prop :=
  ∀ (s : State) (l : Nat), RangesDisjoint s →
    (∀ k : RangeIx, k ≠ 0 →
      (lookup s.ranges l = k ↔
        s.ranges[k].enabled = true ∧ s.ranges[k].start ≤ l ∧ l < s.ranges[k].start + s.ranges[k].length)) ∧
    (lookup s.ranges l = 0 ↔
      ∀ k : RangeIx, k ≠ 0 → s.ranges[k].enabled = true →
        ¬ (s.ranges[k].start ≤ l ∧ l < s.ranges[k].start + s.ranges[k].length))

/-- R25 and R55: a span touches exactly the ranges that hold one of its LBAs, each listed once, in ascending order of the
lowest LBA of the span that each holds; the drain set of a slot is the open contexts whose spans touch a range that
references it, each once. -/
def Obligations.TouchedRangesAndDrainSets : Prop :=
  (∀ (rt : Vector RangeRecord 16) (start count : Nat),
    (∀ r : RangeIx, r ∈ touched rt start count ↔ ∃ i < count, lookup rt (start + i) = r) ∧
    (touched rt start count).Nodup ∧
    (touched rt start count).Pairwise (fun a b =>
      ∃ i < count, lookup rt (start + i) = a ∧ ∀ i' ≤ i, lookup rt (start + i') ≠ b)) ∧
  (∀ (k : SlotIx) (s : State),
    (drainSetOf k s).Nodup ∧
    ∀ t : Tag, t ∈ drainSetOf k s ↔
      s.contexts[t].state.isOpen = true ∧
      ∃ i < s.contexts[t].count,
        let r := s.ranges[lookup s.ranges (s.contexts[t].start + i)]
        r.enabled = true ∧ r.slot = some k)

/-! ### Flow control and transmitters -/

/-- R93: the mark test. While a flow frame is in transmission nothing happens. Otherwise a RELEASED port at its high mark
becomes HELD with a HOLD due, a HELD port at its low mark becomes RELEASED with a GO due; a due frame cancels an opposite
pending one; anything else leaves the port as it is. R93 puts the test off for a pending flow frame in transmission; that it
waits, too, for one that an engine reset found in transmission, which is pending no longer, is the model's choice (log
entry 26). -/
def Obligations.MarkTestRule : Prop :=
  ∀ (high low depth : Nat) (x : Port),
    ((∃ f, x.sending = some (.flow f)) → markTest high low depth x = x) ∧
    ((∀ f, x.sending ≠ some (.flow f)) →
      (x.held = false → high ≤ depth → markTest high low depth x =
        { x with held := true, pendingFlow := if x.pendingFlow = some .go then none else some .hold }) ∧
      (x.held = true → depth ≤ low → markTest high low depth x =
        { x with held := false, pendingFlow := if x.pendingFlow = some .hold then none else some .go }) ∧
      (x.held = false → depth < high → markTest high low depth x = x) ∧
      (x.held = true → low < depth → markTest high low depth x = x))

/-- R96 and R97: what the transmitters begin on at the end of an event. A transmitter with a frame in transmission or a DOWN
link does nothing. A pending flow frame goes first, whatever the peer hold; with the peer hold set nothing else goes. The
front arbiter takes the RPQ or the FSQ, by its pointer when both hold frames, and the pointer then names the other. That
the choice is made in the event that frees the transmitter, after its other effects, and that a partner counts as told
from the beginning of a flow frame, is the model's reading (log entry 11). -/
def Obligations.TransmittersChoose : Prop :=
  ∀ s : State, transmit s = mediaTransmit (frontTransmit s) ∧
    (s.front.link = .down ∨ s.front.sending ≠ none → frontTransmit s = s) ∧
    (s.front.link = .up → s.front.sending = none →
      (∀ f, s.front.pendingFlow = some f → frontTransmit s =
        { s with front := { s.front with sending := some (.flow f), told := some f } }) ∧
      (s.front.pendingFlow = none → s.front.peerHold = true → frontTransmit s = s) ∧
      (s.front.pendingFlow = none → s.front.peerHold = false →
        (s.rpq = [] → s.fsq = [] → frontTransmit s = s) ∧
        (s.rpq ≠ [] → (s.fsq = [] ∨ s.frontTurn = .rpq) → frontTransmit s =
          { s with front := { s.front with sending := some .rpq }, frontTurn := .fsq }) ∧
        (s.fsq ≠ [] → (s.rpq = [] ∨ s.frontTurn = .fsq) → frontTransmit s =
          { s with front := { s.front with sending := some .fsq }, frontTurn := .rpq }))) ∧
    (s.media.link = .down ∨ s.media.sending ≠ none → mediaTransmit s = s) ∧
    (s.media.link = .up → s.media.sending = none →
      (∀ f, s.media.pendingFlow = some f → mediaTransmit s =
        { s with media := { s.media with sending := some (.flow f), told := some f } }) ∧
      (s.media.pendingFlow = none → (s.media.peerHold = true ∨ s.moq = []) → mediaTransmit s = s) ∧
      (s.media.pendingFlow = none → s.media.peerHold = false → s.moq ≠ [] → mediaTransmit s =
        { s with media := { s.media with sending := some .moq } }))

/-- R81, R91, R93, R96, R97: the end of a transmission. A COMPLETION frees its context, a RESPONSE its entry, a sector frame
its place; a flow frame is no longer pending (a GO behind a HOLD stays so, R99), and the marks are tested, at the end of a
frame that an engine reset found in transmission too (the model's choice, log entry 26). The frame sent becomes the last one
of its link, a field of the model's own (`line`, log entry 20). With nothing in transmission the
event does not arise (log entry 2). -/
def Obligations.TransmissionsEnd : Prop :=
  ∀ s : State, Awake s →
    (∀ f rest, s.front.sending = some .rpq → s.rpq = f :: rest → f.header.kind = Kind.completion →
      s.contexts[frameTag f].state = .reporting →
      exec .frontFrameSent s = .next (transmit
        { s with
          front := { s.front with sending := none, line := some f }, rpq := rest,
          contexts := s.contexts.set (frameTag f) Context.free })) ∧
    (∀ f rest, s.front.sending = some .rpq → s.rpq = f :: rest → f.header.kind = Kind.response →
      exec .frontFrameSent s = .next (transmit
        { s with
          front := { s.front with sending := none, line := some f }, rpq := rest, drq := s.drq.tail })) ∧
    (∀ f rest, s.front.sending = some .fsq → s.fsq = f :: rest →
      exec .frontFrameSent s = .next (transmit
        { s with front := { s.front with sending := none, line := some f }, fsq := rest })) ∧
    (∀ f rest, s.media.sending = some .moq → s.moq = f :: rest →
      exec .mediaFrameSent s = .next (transmit
        { s with media := { s.media with sending := none, line := some f }, moq := rest })) ∧
    (∀ p f, (s.port p).sending = some (.flow f) →
      exec (.flowFrameSent p) s = .next (transmit
        (State.testedAt p (s.intake p).length (putPort p
          { s.port p with
            sending := none, line := some (flowFrame f),
            pendingFlow := if (s.port p).pendingFlow = some f then none else (s.port p).pendingFlow } s)))) ∧
    (s.front.sending = none → s.media.sending = none →
      exec .frontFrameSent s = .next (transmit s) ∧ exec .mediaFrameSent s = .next (transmit s) ∧
      ∀ p, exec (.flowFrameSent p) s = .next (transmit s))

/-! ### Link events -/

/-- R150, R153, R154: a link state changes at a report of the other state, and a report of the state that a port already
holds changes nothing; all that the link-up events do. What the link-down events do beside is `FrontLinkLoss` and
`MediaLinkLoss`. -/
def Obligations.LinkReportsTaken : Prop :=
  ∀ s : State, s.inReset = false →
    (s.front.link = .down → exec .frontLinkUp s =
      .next (transmit { s with front := { s.front with link := .up }, autoLock := none })) ∧
    (s.media.link = .down → exec .mediaLinkUp s =
      .next (transmit { s with media := { s.media with link := .up } })) ∧
    (s.front.link = .up → ∃ t, exec .frontLinkDown s = .next t ∧ t.front.link = .down ∧ t.media.link = s.media.link) ∧
    (s.media.link = .up → ∃ t, exec .mediaLinkDown s = .next t ∧ t.media.link = .down ∧ t.front.link = s.front.link) ∧
    (s.front.link = .up → exec .frontLinkUp s = .next s) ∧ (s.media.link = .up → exec .mediaLinkUp s = .next s) ∧
    (s.front.link = .down → exec .frontLinkDown s = .next s) ∧
    (s.media.link = .down → exec .mediaLinkDown s = .next s)

/-- R60, R61, R71, R79, R84, R98, R109, R112, R137, R138, R152, R155: the front link-down event (`line`, a field of the
model's own, stays: log entry 20). The port is DOWN with its flow state released; FIQ, FSQ and RPQ are empty; no context
stays open but in ENDING with its completion suppressed; held READ outputs of open transfers are gone; the auto-lock timer
starts by the selector; an executing directive goes on in silence. No flag and no mask changes and ATTENTION keeps its
level. Of the media port's queue only the judged frame that waited at its head leaves, discarded with its transfer (R79),
and the marks are tested at that departure (R93); the frames behind it, and all the frames of a queue whose head was not
judged, stay: R98 leaves the other link's queue as it was, and that its frames come to the head after this event is the
model's reading (log entry 10). An ENDING context keeps its whole record but for the mark (R84); a lane's held output is
discarded or the lane stays, the FSQ hold list is empty and the MOQ hold list stays (R112); every slot keeps its state,
keys and generation, its pin count falling with the discarded outputs alone (Table 3-4), but for the slot of a drain,
which goes on or is complete (R60); the Directive Unit goes on with its task. A complete drain of a REKEY goes on to its
fill whatever the wrapping entry holds by then (log entry 7). -/
def Obligations.FrontLinkLoss : Prop :=
  ∀ s : State, HeadsLawful s → s.inReset = false → s.front.link = .up →
    ∃ t : State, exec .frontLinkDown s = .next t ∧
    t.front =
      { link := .down, held := false, peerHold := false, pendingFlow := none, told := none, sending := none,
        line := s.front.line } ∧
    (t.fiq = [] ∧ t.fsq = [] ∧ t.rpq = [] ∧ t.verdict = none ∧ t.moq = s.moq) ∧
    (s.verdict = none → t.miq = s.miq ∧ t.media = (mediaTransmit s).media) ∧
    (s.verdict ≠ none → t.miq = s.miq.tail ∧
      t.media = (mediaTransmit (State.testedAt .media s.miq.tail.length s)).media) ∧
    t.events = s.events ∧
    t.autoLock = (if s.limits.selector = 0 then none
      else some (s.time + BitVec.ofNat 64 (500000 * 2 ^ (s.limits.selector - 1)))) ∧
    (∀ i : Tag, t.contexts[i].state = .free ∨ (t.contexts[i].state = .ending ∧ t.contexts[i].suppressed = true)) ∧
    (∀ i : Tag, s.contexts[i].state = .free → t.contexts[i] = s.contexts[i]) ∧
    (∀ i : Tag, s.contexts[i].state = .reporting → t.contexts[i] = Context.free) ∧
    (∀ i : Tag, s.contexts[i].state = .ending →
      t.contexts[i] = if s.contexts[i].jobs = 0 then Context.free else { s.contexts[i] with suppressed := true }) ∧
    (∀ i : Tag, s.contexts[i].state.running = true →
      t.contexts[i] = if s.jobsLeft .front i = 0 then Context.free
        else { s.contexts[i] with
          state := .ending, suppressed := true, deadline := none, jobs := s.jobsLeft .front i }) ∧
    (∀ l : LaneIx, t.lanes[l] = if (lostJob .front s l).isSome = true then .idle else s.lanes[l]) ∧
    (HoldListsAgree s → t.fsqHold = [] ∧ t.moqHold = s.moqHold) ∧
    (∀ k : SlotIx, drainedSlot s ≠ some k → t.slots[k] = { s.slots[k] with pins := s.pinsLeft .front k }) ∧
    (s.du = none → t.drq = [] ∧ t.du = none) ∧
    (∀ done e rest, Next done e rest s → s.du.isSome = true →
      (t.drq = [e] ∧ ∃ task, t.du = some { task := task, silent := true }) ∨ (t.drq = [] ∧ t.du = none)) ∧
    (∀ done e rest, Next done e rest s → ∀ task silent, s.du = some ⟨task, silent⟩ → drainedSlot s = none →
      t.drq = [e] ∧ t.du = some ⟨task, true⟩) ∧
    (∀ done e rest, Next done e rest s → SlotsAgree s → ∀ k goal timer silent,
      s.du = some ⟨.draining k goal timer, silent⟩ → DrainGoesOn .front k goal timer true [e] [] s t) ∧
    (t.time = s.time ∧ t.limits = s.limits ∧ t.ranges = s.ranges ∧ t.wrapping = s.wrapping ∧ t.random = s.random ∧
      t.frontTurn = s.frontTurn ∧ t.laneTurn = s.laneTurn ∧ t.inReset = false ∧ t.pending = s.pending)

/-- R60, R61, R71, R79, R80, R85, R98, R109, R111, R137, R145, R154: the media link-down event (`line`, a field of the
model's own, stays: log entry 20). The port is DOWN with its flow state released; MIQ and MOQ are empty and the verdict
absent; every ACTIVE or FLUSHING context has ended MEDIA_LOST; held WRITE outputs, and held READ outputs of open
transfers, are gone; an ENDING context keeps its record but for the jobs that go with them, and with the last one it
becomes REPORTING, or FREE when its completion is suppressed (R80, R85); no flag changes. Of the front port's queue only
the sector that waited at its head for a lane leaves, discarded with its transfer (R79), and the marks are tested at that
departure (R93); the frames behind it, and all the frames of a queue whose head was no such sector, stay, and nothing else
of the front port's flow state changes: R98 and R154 leave the other port's queue as it was, and that its frames come to
the head after this event is the model's reading (log entry 10). Both hold lists are empty (R111); every slot keeps its
state, keys and generation, its pin count falling with the discarded outputs alone (Table 3-4), but for the slot of a
drain, which goes on or is complete (R60); the Directive Unit and the Directive Queue are as before but for a drain that
completes. A complete drain of a REKEY goes on to its fill whatever the wrapping entry holds by then (log entry 7). -/
def Obligations.MediaLinkLoss : Prop :=
  ∀ s : State, s.inReset = false → s.media.link = .up →
    ∃ t : State, exec .mediaLinkDown s = .next t ∧
    t.media =
      { link := .down, held := false, peerHold := false, pendingFlow := none, told := none, sending := none,
        line := s.media.line } ∧
    (t.miq = [] ∧ t.moq = [] ∧ t.verdict = none ∧ t.fsq = s.fsq ∧ t.events = s.events) ∧
    (let waits := ∃ q ∈ s.fiq.head?, frontCandidate q s = true
     let f := if waits then markTest s.limits.fiqHigh s.limits.fiqLow s.fiq.tail.length s.front else s.front
     t.fiq = (if waits then s.fiq.tail else s.fiq) ∧ t.front.link = s.front.link ∧ t.front.held = f.held ∧
     t.front.peerHold = s.front.peerHold ∧ t.front.pendingFlow = f.pendingFlow ∧ t.front.line = s.front.line ∧
     (s.front.link = .down ∨ s.front.sending ≠ none → t.front = f)) ∧
    (∀ i : Tag, s.contexts[i].state.running = true →
      t.contexts[i] = { s.contexts[i] with
        state := if s.jobsLeft .media i = 0 then .reporting else .ending, ending := some .mediaLost, firstFail := none,
        deadline := none, jobs := s.jobsLeft .media i } ∨
      (s.contexts[i].suppressed = true ∧ t.contexts[i] = Context.free)) ∧
    (∀ i : Tag, s.contexts[i].state = .free ∨ s.contexts[i].state = .reporting → s.contexts[i].jobs = 0 →
      t.contexts[i] = s.contexts[i]) ∧
    (∀ i : Tag, s.contexts[i].state = .ending → t.contexts[i].ending = s.contexts[i].ending ∨
      t.contexts[i] = Context.free) ∧
    (∀ i : Tag, s.contexts[i].state = .ending → s.contexts[i].jobs ≠ 0 →
      t.contexts[i] =
        if s.jobsLeft .media i ≠ 0 then { s.contexts[i] with jobs := s.jobsLeft .media i }
        else if s.contexts[i].suppressed = true then Context.free
        else { s.contexts[i] with state := .reporting, deadline := none, jobs := 0 }) ∧
    (∀ l : LaneIx, t.lanes[l] = if (lostJob .media s l).isSome = true then .idle else s.lanes[l]) ∧
    (HoldListsAgree s → t.moqHold = [] ∧ t.fsqHold = []) ∧
    (∀ k : SlotIx, drainedSlot s ≠ some k → t.slots[k] = { s.slots[k] with pins := s.pinsLeft .media k }) ∧
    (drainedSlot s = none → t.du = s.du ∧ t.drq = s.drq) ∧
    (∀ done e rest, Next done e rest s → SlotsAgree s → ∀ k goal timer silent,
      s.du = some ⟨.draining k goal timer, silent⟩ →
      DrainGoesOn .media k goal timer silent s.drq
        (if silent then done ++ rest else done ++ { e with executed := true } :: rest) s t) ∧
    (t.time = s.time ∧ t.limits = s.limits ∧ t.ranges = s.ranges ∧ t.wrapping = s.wrapping ∧ t.random = s.random ∧
      t.laneTurn = s.laneTurn ∧ t.autoLock = s.autoLock ∧ t.inReset = false ∧ t.pending = s.pending ∧
      s.rpq <+: t.rpq)

/-! ### Arrivals -/

/-- R87, R95: a HOLD sets the peer hold of its port and a GO clears it, whether the frame comes as its own command or as a
frame with its kind code and a good header check (log entry 17); a DOWN port receives nothing. -/
def Obligations.FlowFramesArrive : Prop :=
  ∀ (p : PortId) (s : State),
    (Listening p s →
      exec (.holdArrival p) s = .next (transmit (putPort p { s.port p with peerHold := true } s)) ∧
      exec (.goArrival p) s = .next (transmit (putPort p { s.port p with peerHold := false } s)) ∧
      (AtRest s → ∀ f : Frame, headerGood f = true →
        (f.header.kind.toNat = 8 → exec (.frameArrival p f) s = exec (.holdArrival p) s) ∧
        (f.header.kind.toNat = 9 → exec (.frameArrival p f) s = exec (.goArrival p) s))) ∧
    (Awake s → (s.port p).link = .down →
      exec (.holdArrival p) s = .next s ∧ exec (.goArrival p) s = .next s ∧
      ∀ f : Frame, exec (.frameArrival p f) s = .next s)

/-- R87, R88, R91, R151: a frame whose header check fails is dropped with FRAME_DAMAGED; a frame of a kind that may not
arrive on its link, or of no kind, or a transfer frame whose tag is above 63, is dropped with WRONG_KIND; a DIRECTIVE on
the front link enters the Directive Queue, damaged or not, and at a full queue is lost with DIRECTIVE_LOST. Nothing else
changes. -/
def Obligations.ArrivalsOutsideTheIntake : Prop :=
  ∀ (p : PortId) (f : Frame) (s : State), Listening p s → AtRest s →
    (headerGood f = false → exec (.frameArrival p f) s = .next (transmit (s.flagged Flag.frameDamaged))) ∧
    (headerGood f = true →
      (p = .front ∧ f.header.kind.toNat ∉ [1, 2, 3, 8, 9]) ∨ (p = .media ∧ f.header.kind.toNat ∉ [2, 6, 7, 8, 9]) ∨
        (f.header.kind.toNat ∈ [1, 2, 6, 7] ∧ 63 < f.header.tag.toNat) →
      exec (.frameArrival p f) s = .next (transmit (s.flagged Flag.wrongKind))) ∧
    (headerGood f = true → p = .front → f.header.kind.toNat = 3 →
      (s.drq.length < 8 → exec (.frameArrival p f) s = .next (transmit
        { s with drq := s.drq ++ [{ frame := f, damaged := payloadDamaged f, executed := false }] })) ∧
      (8 ≤ s.drq.length → exec (.frameArrival p f) s = .next (transmit (s.flagged Flag.directiveLost))))

/-- R86, R89, R90, R93: a transfer frame that arrives behind others enters its intake queue with its damage mark, and the
marks are tested; at a full queue it is dropped with the overrun flag, and an ACTIVE or FLUSHING context of its tag ends
OVERRUN, with the sector index as first failing index unless the frame is an OPEN. What waits at a head or is held for
that context goes with it, and the heads take the frames behind (R79; `State.cleared`). -/
def Obligations.IntakeFramesQueueOrOverrun : Prop :=
  ∀ (p : PortId) (f : Frame) (s : State), Listening p s → AtRest s → headerGood f = true → f.header.tag.toNat ≤ 63 →
    f.header.kind.toNat ∈ (match p with | .front => [1, 2] | .media => [2, 6, 7]) → s.intake p ≠ [] →
    ((s.intake p).length < 16 → exec (.frameArrival p f) s = .next (transmit
      (State.testedAt p ((s.intake p).length + 1)
        (State.withIntake p (s.intake p ++ [{ frame := f, damaged := payloadDamaged f }]) s)))) ∧
    (16 ≤ (s.intake p).length → s.contexts[frameTag f].state.running = false →
      exec (.frameArrival p f) s = .next (transmit (s.flagged (overrunFlag p)))) ∧
    (16 ≤ (s.intake p).length → s.contexts[frameTag f].state.running = true →
      let fail := if f.header.kind.toNat = 1 then none else some f.header.index.toNat
      exec (.frameArrival p f) s = .next (transmit (heads
        ((s.flagged (overrunFlag p)).cleared (frameTag f) .overrun fail))) ∧
      (Unencumbered (frameTag f) s → exec (.frameArrival p f) s = .next (transmit
        ((s.flagged (overrunFlag p)).ended (frameTag f) .overrun fail))))

/-- R65, R66, R76: an OPEN of a FREE tag that passes every check makes its context ACTIVE with the fields it carries, its
counters zero and its idle deadline set, whether it arrives at an empty queue or comes to the head from behind another,
where the heads then go on in the same event (log entry 10). -/
def Obligations.OpenIsTaken : Prop :=
  ∀ (f : Frame) (s : State), f.header.kind.toNat = 1 → s.contexts[frameTag f].state = .free → frameFormat f ≤ 3 →
    frameLba f + frameCount f ≤ s.limits.ceiling →
    (∀ k ∈ touched s.ranges (frameLba f) (frameCount f), RangeAllows (frameDirection f) k s) →
    let opened := s.contexts.set (frameTag f)
      { state := .active, direction := frameDirection f, start := frameLba f, count := frameCount f,
        format := Fin.ofNat 4 (frameFormat f), taken := 0, finished := 0, jobs := 0, marks := 0, ending := none,
        firstFail := none, counts := ⟨0, 0, 0, 0, 0⟩, deadline := s.deadlineNow, suppressed := false }
    (ArrivesAlone .front f s → payloadDamaged f = false →
      exec (.frameArrival .front f) s = .next (transmit { s.passed .front with contexts := opened })) ∧
    (AtFrontHead f false s → heads s = heads { s.beheaded .front with contexts := opened })

/-- R66, R67, R68: an OPEN of a FREE tag that fails a check makes its context REPORTING with the status of the first check
that fails, and its COMPLETION enters the Report Queue; an OPEN of another tag is dropped with TAG_BUSY, and ends an
ACTIVE or FLUSHING context TAG_REUSE with all that it clears away (R79). So for an OPEN that arrives at an empty queue,
and for one that comes to the head from behind another, where the heads then go on in the same event (log entry 10). -/
def Obligations.OpenIsRefusedOrDropped : Prop :=
  ∀ (f : Frame) (damaged : Bool) (s : State), f.header.kind.toNat = 1 →
    let arrives := ArrivesAlone .front f s ∧ damaged = payloadDamaged f
    let comes := AtFrontHead f damaged s
    (∀ e before k after, s.contexts[frameTag f].state = .free → InNoDrain (frameTag f) s →
      OpenFails damaged f e before k after s →
      let c : Context :=
        { state := .reporting, direction := frameDirection f, start := frameLba f, count := frameCount f,
          format := if 3 < frameFormat f then 0 else Fin.ofNat 4 (frameFormat f), taken := 0, finished := 0, jobs := 0,
          marks := 0, ending := some e, firstFail := none, counts := ⟨0, 0, 0, 0, 0⟩, deadline := none,
          suppressed := false }
      let contexts := s.contexts.set (frameTag f) c
      let rpq := s.rpq ++ [completionFrame (frameTag f) c]
      (arrives → exec (.frameArrival .front f) s =
        .next (transmit { s.passed .front with contexts := contexts, rpq := rpq })) ∧
      (comes → heads s = heads { s.beheaded .front with contexts := contexts, rpq := rpq })) ∧
    (s.contexts[frameTag f].state = .ending ∨ s.contexts[frameTag f].state = .reporting →
      (arrives → exec (.frameArrival .front f) s = .next (transmit ((s.passed .front).flagged Flag.tagBusy))) ∧
      (comes → heads s = heads ((s.beheaded .front).flagged Flag.tagBusy))) ∧
    (s.contexts[frameTag f].state.running = true →
      (arrives →
        exec (.frameArrival .front f) s = .next (transmit (heads
          (((s.passed .front).flagged Flag.tagBusy).cleared (frameTag f) .tagReuse none))) ∧
        (Unencumbered (frameTag f) s → exec (.frameArrival .front f) s = .next (transmit
          (((s.passed .front).flagged Flag.tagBusy).ended (frameTag f) .tagReuse none)))) ∧
      (comes → heads s = heads (((s.beheaded .front).flagged Flag.tagBusy).cleared (frameTag f) .tagReuse none)))

/-- R69, R70, R101: a write SECTOR at the front head is dropped with ORPHAN_SECTOR, discarded silently, ends its context with
the first check of R70 that it fails, with all that this clears away (R79), or waits there for a lane as a candidate. So
for a SECTOR that arrives at an empty queue, and for one that comes to the head from behind another, where the heads
then go on in the same event (log entry 10). -/
def Obligations.WriteSectorAtTheHead : Prop :=
  ∀ (f : Frame) (damaged : Bool) (s : State), f.header.kind.toNat = 2 →
    let c := s.contexts[frameTag f]
    let arrives := ArrivesAlone .front f s ∧ damaged = payloadDamaged f
    let comes := AtFrontHead f damaged s
    (c.state = .free ∨ c.state = .flushing ∨ (c.state = .active ∧ c.direction = .read) →
      (arrives → exec (.frameArrival .front f) s = .next (transmit ((s.passed .front).flagged Flag.orphanSector))) ∧
      (comes → heads s = heads ((s.beheaded .front).flagged Flag.orphanSector))) ∧
    (c.state = .ending ∨ c.state = .reporting →
      (arrives → exec (.frameArrival .front f) s = .next (transmit (s.passed .front))) ∧
      (comes → heads s = heads (s.beheaded .front))) ∧
    (c.state = .active → c.direction = .write →
      let sequence := f.header.index.toNat ≠ c.taken ∨ frameLba f ≠ c.start + f.header.index.toNat
      let length := f.header.length.toNat ≠ sectorLength c.format ∨ frameFormat f ≠ c.format.val
      (∀ e, (sequence ∧ e = .sequence) ∨ (¬ sequence ∧ length ∧ e = .badLength) ∨
          (¬ sequence ∧ ¬ length ∧ damaged = true ∧ e = .damaged) →
        (arrives →
          exec (.frameArrival .front f) s = .next (transmit (heads
            ((s.passed .front).cleared (frameTag f) e (some c.taken)))) ∧
          (Unencumbered (frameTag f) s → exec (.frameArrival .front f) s = .next (transmit
            ((s.passed .front).ended (frameTag f) e (some c.taken))))) ∧
        (comes → heads s = heads ((s.beheaded .front).cleared (frameTag f) e (some c.taken)))) ∧
      (¬ sequence → ¬ length → damaged = false →
        (arrives → exec (.frameArrival .front f) s = .next (transmit
          (State.testedAt .front 1 { s with fiq := [{ frame := f, damaged := false }] }))) ∧
        frontCandidate { frame := f, damaged := damaged } s = true))

/-- R73: a read frame that does not belong to a transfer: discarded silently for an ENDING or REPORTING context, an orphan
for a FREE, FLUSHING or WRITE one and for an index not below the count, a duplicate for a marked index; a damaged one
ends its context DAMAGED with its index as first failing index, with all that this clears away (R79). So for a frame that
arrives at an empty queue, and for one that comes to the head from behind another, where the heads then go on in the same
event (log entry 10). -/
def Obligations.ReadFrameDisposedOf : Prop :=
  ∀ (f : Frame) (damaged : Bool) (s : State), f.header.kind.toNat ∈ [2, 6, 7] →
    let c := s.contexts[frameTag f]
    let i := f.header.index.toNat
    let arrives := ArrivesAlone .media f s ∧ damaged = payloadDamaged f
    let comes := AtMediaHead f damaged s
    (c.state = .ending ∨ c.state = .reporting →
      (arrives → exec (.frameArrival .media f) s = .next (transmit (s.passed .media))) ∧
      (comes → heads s = heads (s.beheaded .media))) ∧
    (c.state = .free ∨ c.state = .flushing ∨ (c.state = .active ∧ c.direction = .write) ∨
        (c.state = .active ∧ c.count ≤ i) →
      (arrives → exec (.frameArrival .media f) s = .next (transmit ((s.passed .media).flagged Flag.orphanSector))) ∧
      (comes → heads s = heads ((s.beheaded .media).flagged Flag.orphanSector))) ∧
    (c.state = .active → c.direction = .read → i < c.count → c.marks.getLsbD i = true →
      (arrives → exec (.frameArrival .media f) s = .next (transmit ((s.passed .media).flagged Flag.duplicateSector))) ∧
      (comes → heads s = heads ((s.beheaded .media).flagged Flag.duplicateSector))) ∧
    (c.state = .active → c.direction = .read → i < c.count → c.marks.getLsbD i = false → damaged = true →
      (arrives →
        exec (.frameArrival .media f) s = .next (transmit (heads
          ((s.passed .media).cleared (frameTag f) .damaged (some i)))) ∧
        (Unencumbered (frameTag f) s → exec (.frameArrival .media f) s = .next (transmit
          ((s.passed .media).ended (frameTag f) .damaged (some i))))) ∧
      (comes → heads s = heads ((s.beheaded .media).cleared (frameTag f) .damaged (some i))))

/-- R127 to R131: the judging of a read frame of an ACTIVE READ context. The verdict is MISMATCH by the LBA, the payload
length or the trailer's format byte; else VOID for a VOID frame, whatever the tables hold; else STALE by the trailer's
range index or stamp (STALE too for a range that names no slot, which R127 does not speak of: the model's choice, log
entry 14); else ZERO or DECIPHER by the kind. -/
def Obligations.JudgingTests : Prop :=
  ∀ (f : Frame) (s : State),
    let c := s.contexts[frameTag f]
    let expected := c.start + f.header.index.toNat
    let r := lookup s.ranges expected
    let n := sectorLength c.format
    let t := trailerOfBytes (f.payload.drop (if f.header.kind.toNat = 6 then 0 else n))
    let mismatch := frameLba f ≠ expected ∨ (f.header.kind.toNat = 2 ∧ f.header.length.toNat ≠ n + 8) ∨
      (f.header.kind.toNat = 6 ∧ f.header.length.toNat ≠ 8) ∨
      (f.header.kind.toNat ≠ 7 ∧ t.form ≠ formatByte s.ranges[r].metaCipher c.format)
    let current := t.range.toNat = r.val ∧ ∃ k : SlotIx, s.ranges[r].slot = some k ∧ s.slots[k].generation = t.stamp
    (judge f s = .mismatch ↔ mismatch) ∧
    (judge f s = .void ↔ ¬ mismatch ∧ f.header.kind.toNat = 7) ∧
    (judge f s = .stale ↔ ¬ mismatch ∧ f.header.kind.toNat ≠ 7 ∧ ¬ current) ∧
    (judge f s = .zero ↔ ¬ mismatch ∧ f.header.kind.toNat = 6 ∧ current) ∧
    (judge f s = .decipher ↔ ¬ mismatch ∧ f.header.kind.toNat ≠ 7 ∧ f.header.kind.toNat ≠ 6 ∧ current) ∧
    (f.header.kind.toNat = 7 → ∀ (rt : Vector RangeRecord 16) (st : Vector SlotRecord 16),
      judge f { s with ranges := rt, slots := st } = judge f s)

/-- R73, R127, R132, R133, R136: a read frame of an ACTIVE READ context whose index is below the count and not marked belongs
to its transfer, and undamaged it is judged at once. A frame to be deciphered, and one whose bypass finds no room, waits
at the head with its verdict; with room, the frame is taken and its zero-filled sector, with the status of its verdict,
delivered in the same event. So for a frame that arrives at an empty queue, and for one that comes to the head from
behind another, where the heads then go on in the same event (log entry 10). -/
def Obligations.ReadFrameJudged : Prop :=
  (∀ (q : Queued) (s : State),
    let c := s.contexts[frameTag q.frame]
    belongsToRead q s = true ↔ c.state = .active ∧ c.direction = .read ∧ q.frame.header.index.toNat < c.count ∧
      c.marks.getLsbD q.frame.header.index.toNat = false) ∧
  ∀ (f : Frame) (s : State), f.header.kind.toNat ∈ [2, 6, 7] →
    belongsToRead { frame := f, damaged := false } s = true →
    let arrives := ArrivesAlone .media f s ∧ payloadDamaged f = false
    let comes := AtMediaHead f false s
    (judge f s = .decipher ∨ 16 ≤ s.fsq.length ∨ s.fsqHold ≠ [] →
      (arrives → exec (.frameArrival .media f) s = .next (transmit
        (State.testedAt .media 1
          { s with miq := [{ frame := f, damaged := false }], verdict := some (judge f s) }))) ∧
      (comes → heads s = { s with verdict := some (judge f s) })) ∧
    (∀ r : ReadStatus, Bypasses (judge f s) r → s.fsq.length < 16 → s.fsqHold = [] →
      let c := s.contexts[frameTag f]
      let delivered (x : State) : State :=
        ((x.took (frameTag f) f.header.index.toNat 0).delivered (frameTag f) r
          (readFrame (frameTag f) c f.header.index.toNat r (List.replicate (sectorLength c.format) 0))).closed (frameTag f)
      (arrives → exec (.frameArrival .media f) s = .next (transmit (delivered (s.passed .media)))) ∧
      (comes → heads s = heads (delivered (s.beheaded .media))))

/-! ### Cipher lanes -/

/-- R101 to R103, R116, R117, R134: one grant. The lowest-numbered IDLE lane takes the only candidate, or the one that the
pointer names; the job takes its input set whole from the range and the slot of its LBA as they stand, the slot is
pinned, the context takes the sector, the frame leaves its queue and the pointer names the other side. Without an IDLE
lane, or without a candidate, the event does not arise and nothing happens (log entry 2); a candidate whose range names
no slot, which R104 excludes, stops the model (log entry 14; by `SlotsFollowTheDirectiveUnit` no run meets one). -/
def Obligations.LaneJobStarts : Prop :=
  (∀ (l : LaneIx) (side : PortId) (q : Queued) (k : SlotIx) (s : State), Awake s →
    s.lanes[l] = .idle → (∀ l' : LaneIx, l' < l → s.lanes[l'] ≠ .idle) → Granted side q s →
    let t := frameTag q.frame
    let c := s.contexts[t]
    let lba := c.start + q.frame.header.index.toNat
    let r := lookup s.ranges lba
    let d := cipheredLength s.ranges[r].metaCipher c.format
    let n := sectorLength c.format
    let inputs : InputSet :=
      { lba := lba, range := r, rangeStart := if r = 0 then 0 else s.ranges[r].start,
        tweakBase := s.ranges[r].tweakBase, metaCipher := s.ranges[r].metaCipher, checkMask := s.ranges[r].checkMask,
        zeroMark := s.ranges[r].zeroMark, generation := s.slots[k].generation, dataKey := s.slots[k].dataKey,
        tweakKey := s.slots[k].tweakKey, format := c.format }
    let sector : SectorBytes := match side with
      | .front => .plain q.frame.payload
      | .media =>
        .ciphered (q.frame.payload.take d) (slice q.frame.payload d (n - d)) (trailerOfBytes (q.frame.payload.drop n))
    s.ranges[r].slot = some k →
    exec .laneJobStart s = .next (transmit (heads
      (State.took t q.frame.header.index.toNat 1
        { s.beheaded side with
          laneTurn := if side = .front then .media else .front,
          slots := s.slots.set k { s.slots[k] with pins := s.slots[k].pins + 1 },
          lanes := s.lanes.set l
            (.running { tag := t, index := q.frame.header.index.toNat, slot := k, inputs := inputs, sector := sector }) })))) ∧
  (∀ s : State, Awake s → (∀ l : LaneIx, s.lanes[l] ≠ .idle) → exec .laneJobStart s = .next s) ∧
  (∀ s : State, Awake s → (∀ side q, ¬ Waits side q s) → exec .laneJobStart s = .next s) ∧
  (∀ s : State, headsWait s = false → (exec .laneJobStart s = .fault .jobStartWithoutSlot ↔
    s.inReset = false ∧ (∃ l : LaneIx, s.lanes[l] = .idle) ∧ ∃ side q, Granted side q s ∧
      s.ranges[lookup s.ranges (s.contexts[frameTag q.frame].start + q.frame.header.index.toNat)].slot = none))

/-- R106 to R108: a completing job whose output finds room. The output of an ACTIVE or FLUSHING context, or a write of an
ENDING one while the media link is UP, enters its queue; the job is over, the sector is counted, and the context ends
DONE or leaves ENDING where its counts say so, and its drain set with that. -/
def Obligations.JobOutputEnters : Prop :=
  ∀ (l : LaneIx) (j : Job) (s : State), Awake s → s.lanes[l] = .running j →
    let c := s.contexts[j.tag]
    let f := outputFrame j c
    (∀ plain, j.sector = .plain plain →
      c.state.running = true ∨ (c.state = .ending ∧ s.media.link = .up) → s.moq.length < 16 → s.moqHold = [] →
      exec (.laneJobCompletion l) s = .next (transmit (((s.released l j).emitted j.tag f).closed j.tag))) ∧
    (∀ region clear t, j.sector = .ciphered region clear t → c.state.running = true → s.fsq.length < 16 →
      s.fsqHold = [] →
      exec (.laneJobCompletion l) s = .next (transmit
        (((s.released l j).delivered j.tag (outputStatus f) f).closed j.tag)))

/-- R106, R107, R109: a completing job whose output finds no room is held, last in its queue's hold list; a read of an
ENDING context, and a write of one while the media link is DOWN, is discarded, and the context may leave ENDING. A lane
that is not RUNNING completes nothing: the event does not arise (log entry 2). -/
def Obligations.JobOutputHeldOrDiscarded : Prop :=
  ∀ (l : LaneIx) (s : State), Awake s →
    (∀ j : Job, s.lanes[l] = .running j →
      let c := s.contexts[j.tag]
      let f := outputFrame j c
      (∀ plain, j.sector = .plain plain →
        c.state.running = true ∨ (c.state = .ending ∧ s.media.link = .up) → 16 ≤ s.moq.length ∨ s.moqHold ≠ [] →
        exec (.laneJobCompletion l) s = .next (transmit
          { s with lanes := s.lanes.set l (.holding j f .moq), moqHold := s.moqHold ++ [l] })) ∧
      (∀ region clear t, j.sector = .ciphered region clear t → c.state.running = true →
        16 ≤ s.fsq.length ∨ s.fsqHold ≠ [] →
        exec (.laneJobCompletion l) s = .next (transmit
          { s with lanes := s.lanes.set l (.holding j f .fsq), fsqHold := s.fsqHold ++ [l] })) ∧
      (c.state = .ending →
        (∃ region clear t, j.sector = .ciphered region clear t) ∨ s.media.link = .down →
        exec (.laneJobCompletion l) s = .next (transmit ((s.released l j).closed j.tag)))) ∧
    ((∀ j : Job, s.lanes[l] ≠ .running j) → exec (.laneJobCompletion l) s = .next s)

/-- R110, R133: a free place of a queue goes to the first lane of its hold list; with the list empty, a bypass sector that
waits at the media head enters the FSQ with the status of its verdict. Where no place is free, or nothing waits for one,
the event does not arise and nothing happens (log entry 2). -/
def Obligations.FreedPlacesAreGiven : Prop :=
  ∀ s : State, Awake s →
    (∀ l rest j f q, s.moqHold = l :: rest → s.moq.length < 16 → s.lanes[l] = .holding j f q →
      exec (.handOff .moq) s = .next (transmit (((s.released l j).emitted j.tag f).closed j.tag))) ∧
    (∀ l rest j f q, s.fsqHold = l :: rest → s.fsq.length < 16 → s.lanes[l] = .holding j f q →
      exec (.handOff .fsq) s = .next (transmit
        (((s.released l j).delivered j.tag (outputStatus f) f).closed j.tag))) ∧
    (s.moqHold = [] ∨ 16 ≤ s.moq.length → exec (.handOff .moq) s = .next s) ∧
    (s.fsqHold = [] ∨ 16 ≤ s.fsq.length → exec (.handOff .fsq) s = .next s) ∧
    (∀ q rest v r, s.miq = q :: rest → s.verdict = some v → Bypasses v r → belongsToRead q s = true →
      s.fsq.length < 16 → s.fsqHold = [] →
      let t := frameTag q.frame
      let i := q.frame.header.index.toNat
      let c := s.contexts[t]
      exec .bypassOffer s = .next (transmit (heads
        ((((s.beheaded .media).took t i 0).delivered t r
          (readFrame t c i r (List.replicate (sectorLength c.format) 0))).closed t)))) ∧
    (s.miq = [] ∨ s.verdict = none ∨ 16 ≤ s.fsq.length ∨ s.fsqHold ≠ [] → exec .bypassOffer s = .next s)

/-! ### Timers and the Random Source -/

/-- R76, R79, R157: the expiry of an ACTIVE context's idle deadline ends it TIMEOUT with all that this clears away; a context
that is not ACTIVE, or holds no deadline, is not reached. The expiry comes at the deadline, to which an expiry command
lets time pass, or now when the deadline has passed (log entry 3); while another timer would be late by then, that one
must expire first and the command does not arise (log entry 2). No timer ever runs late: every step keeps that (R157).
In an idle step the deadline that is due first expires as by its command (log entry 3). -/
def Obligations.IdleDeadlineExpires : Prop :=
  (∀ (t : Tag) (s : State), Awake s →
    (∀ d : Time, s.contexts[t].deadline = some d → s.contexts[t].state = .active →
      let u : State := { s with time := s.expiryAt d }
      (NoneLate (.idle t) (s.expiryAt d) s →
        exec (.idleDeadlineExpiry t) s = .next (transmit (heads (u.cleared t .timeout none))) ∧
        (Unencumbered t s → AtRest s →
          exec (.idleDeadlineExpiry t) s = .next (transmit (u.ended t .timeout none)))) ∧
      (¬ NoneLate (.idle t) (s.expiryAt d) s → exec (.idleDeadlineExpiry t) s = .next s)) ∧
    (s.contexts[t].deadline = none ∨ s.contexts[t].state ≠ .active → exec (.idleDeadlineExpiry t) s = .next s) ∧
    (TimersInTime s → FirstDue (.idle t) s → ∀ u, exec (.idleDeadlineExpiry t) s = .next u → tick s = tick u)) ∧
  (∀ (s : State) (d : Time), s.expiryAt d = (if (d - s.time).toNat = 0 ∨ 2 ^ 63 ≤ (d - s.time).toNat then s.time else d)) ∧
  StepKeeps TimersInTime

/-- R35, R46, R155, R157: the auto-lock expiry locks every enabled range with LINK_LOCK, empties the Wrapping Key Table, sets
LINK_LOCKED and stops the timer. A directive that is filling a slot ends NO_WRAP with its slot EMPTY (when it ends is
the model's reading, log entry 8): in silence, as the loss of the front link that started the timer left it, its entry
is freed and no RESPONSE made (R60, R98, R138). The expiry comes at the deadline, to which an expiry command lets time
pass, or now when the deadline has passed (log entry 3); with the timer stopped, or while another timer would be late
by then, the event does not arise (log entry 2). In an idle step the timer, when it is due, expires as by its command
(log entry 3). -/
def Obligations.AutoLockExpires : Prop :=
  ∀ s : State, Awake s →
    (∀ d : Time, s.autoLock = some d → NoneLate .autoLock (s.expiryAt d) s →
      let locked : State :=
        { s.flagged Flag.linkLocked with
          time := s.expiryAt d, autoLock := none, wrapping := Vector.replicate 4 none,
          ranges := s.ranges.map (fun r => if r.enabled = true ∧ r.linkLock = true
            then { r with readLock := true, writeLock := true } else r) }
      (∃ t, exec .autoLockExpiry s = .next t ∧ t.autoLock = none ∧ t.wrapping = locked.wrapping ∧
        t.ranges = locked.ranges ∧ t.events = locked.events ∧ t.time = s.expiryAt d ∧ filledSlot t = none) ∧
      (filledSlot s = none → exec .autoLockExpiry s = .next (transmit locked)) ∧
      (∀ task silent done e rest k, Runs task silent done e rest s → filledSlot s = some k →
        exec .autoLockExpiry s = .next (transmit
          (State.concluded silent .noWrap [] done e rest
            { locked with
              slots := s.slots.set k
                { s.slots[k] with state := .empty, dataKey := 0, tweakKey := 0, drainSet := [] } })))) ∧
    (∀ d : Time, s.autoLock = some d → ¬ NoneLate .autoLock (s.expiryAt d) s → exec .autoLockExpiry s = .next s) ∧
    (s.autoLock = none → exec .autoLockExpiry s = .next s) ∧
    (TimersInTime s → FirstDue .autoLock s → ∀ u, exec .autoLockExpiry s = .next u → tick s = tick u)

/-- R47, R48: the start-up test ends WARMING, in READY or in FAILED; a failing running test moves READY to FAILED. Entering
FAILED sets RANDOM_FAIL, and a directive whose fill has not ended ends RANDOM_FAILED with its slot EMPTY: answered, or,
in silence after a front link loss, freed without a RESPONSE (R60, R98, R138). In another state of the source the test
does not run (log entry 2). -/
def Obligations.HealthTestsEnd : Prop :=
  ∀ s : State, Awake s →
    (s.random = .warming → exec (.startUpTestComplete true) s = .next (transmit { s with random := .ready })) ∧
    (s.random ≠ .warming → ∀ passed, exec (.startUpTestComplete passed) s = .next (transmit s)) ∧
    (s.random ≠ .ready → exec .runningTestFailure s = .next (transmit s)) ∧
    (∀ c : Instr, (s.random = .warming ∧ c = .startUpTestComplete false) ∨
        (s.random = .ready ∧ c = .runningTestFailure) →
      ((∀ k e g silent, s.du ≠ some ⟨.filling k e g, silent⟩) →
        exec c s = .next (transmit { s.flagged Flag.randomFail with random := .failed })) ∧
      (∀ k e g silent done x rest, Runs (.filling k e g) silent done x rest s →
        exec c s = .next (transmit
          (State.concluded silent .randomFailed [] done x rest
            { s.flagged Flag.randomFail with
              random := .failed,
              slots := s.slots.set k
                { s.slots[k] with state := .empty, dataKey := 0, tweakKey := 0, drainSet := [] } }))))

/-! ### Directives -/

/-- R138 to R140, R160: the checks before every directive. The next directive, damaged, is answered DAMAGED; with a payload
of a length that its code does not have, or a code that is none of the fourteen, BAD_PARAM; nothing else changes. The
command of an unknown code also answers a QUERY that carries no view or a view number above 4 (log entry 13). A command
that is not the one of the next directive's code and view does not arise, and neither does any while the unit is
EXECUTING or with nothing to execute: no directive begins (log entry 2). -/
def Obligations.DirectivesThatCannotBegin : Prop :=
  (∀ (done : List DrqEntry) (e : DrqEntry) (rest : List DrqEntry) (s : State), Awake s → s.du = none →
    Next done e rest s →
    let refused (c : Instr) :=
      exec c s = .next (transmit (s.answered (if e.damaged = true then .damaged else .badParam) [] done e rest))
    (param e 0 = 0 ∨ 14 < param e 0 → refused .unknownDirective) ∧
    (param e 0 = 12 → e.frame.payload.length = 1 ∨ 4 < param e 1 → refused .unknownDirective) ∧
    (∀ x ∈ [(1, 24, Instr.defineRange), (2, 2, .disableRange), (3, 3, .setLocks), (4, 66, .setWrappingKey),
        (5, 2, .clearWrappingKey), (6, 5, .generateKey), (7, 99, .installKey), (8, 6, .rekeySlot), (9, 3, .discardKey),
        (10, 2, .abandonTransfer), (11, 18, .setLimits), (13, 3, .clearEvents), (14, 1, .resetEngine)],
      param e 0 = x.1 → e.damaged = true ∨ e.frame.header.length.toNat ≠ x.2.1 → refused x.2.2) ∧
    (∀ x ∈ [(0, Instr.queryEngine), (1, .queryRange), (2, .querySlot), (3, .queryContext), (4, .queryLimits)],
      param e 0 = 12 → 2 ≤ e.frame.payload.length → param e 1 = x.1 →
      e.damaged = true ∨ e.frame.header.length.toNat ≠ 3 → refused x.2) ∧
    (∀ x ∈ [(1, Instr.defineRange), (2, .disableRange), (3, .setLocks), (4, .setWrappingKey), (5, .clearWrappingKey),
        (6, .generateKey), (7, .installKey), (8, .rekeySlot), (9, .discardKey), (10, .abandonTransfer),
        (11, .setLimits), (13, .clearEvents), (14, .resetEngine)],
      param e 0 ≠ x.1 → exec x.2 s = .next (transmit s)) ∧
    (∀ x ∈ [(0, Instr.queryEngine), (1, .queryRange), (2, .querySlot), (3, .queryContext), (4, .queryLimits)],
      param e 0 ≠ 12 ∨ e.frame.payload.length < 2 ∨ param e 1 ≠ x.1 → exec x.2 s = .next (transmit s)) ∧
    (1 ≤ param e 0 → param e 0 ≤ 14 → (param e 0 = 12 → 2 ≤ e.frame.payload.length ∧ param e 1 ≤ 4) →
      exec .unknownDirective s = .next (transmit s))) ∧
  (∀ s : State, Awake s → s.du ≠ none ∨ (∀ e ∈ s.drq, e.executed = true) →
    ∀ c ∈ [Instr.defineRange, .disableRange, .setLocks, .setWrappingKey, .clearWrappingKey, .generateKey, .installKey,
      .rekeySlot, .discardKey, .abandonTransfer, .setLimits, .queryEngine, .queryRange, .querySlot, .queryContext,
      .queryLimits, .clearEvents, .resetEngine, .unknownDirective],
    exec c s = .next (transmit s))

/-- R27, R29, R31, R32: an accepted DEFINE RANGE enables the range with the fields it carries; range 0 takes no bounds.
Range k above 0 must be given at least one LBA, end no later than the ceiling, meet no other enabled range, and meet with
neither its current nor its new extent the span of an open context; range 0 must hold no LBA of such a span. An accepted
DISABLE RANGE clears the whole record of a range 1 to 15, which no such span may meet. -/
def Obligations.RangesDefinedAndDisabled : Prop :=
  (∀ (done : List DrqEntry) (e : DrqEntry) (rest : List DrqEntry) (s : State) (k : RangeIx) (slot : Option SlotIx),
    Ready 1 24 done e rest s → param e 1 = k.val →
    (param e 2 = 255 ∧ slot = none) ∨ (param e 2 < 16 ∧ slot = some (Fin.ofNat 16 (param e 2))) →
    let p := e.frame.payload
    let start := field p 5 5
    let length := field p 10 6
    let a := byteAt p 3
    let attributes : RangeRecord :=
      { enabled := true, start := 0, length := 0, slot := slot, readLock := a.getLsbD 0, writeLock := a.getLsbD 1,
        metaCipher := a.getLsbD 2, zeroMark := a.getLsbD 3, linkLock := a.getLsbD 4, checkMask := byteAt p 4,
        tweakBase := BitVec.ofNat 64 (field p 16 8) }
    (k ≠ 0 → 1 ≤ length → start + length ≤ s.limits.ceiling →
      (∀ j : RangeIx, j ≠ 0 → j ≠ k → s.ranges[j].enabled = true →
        ¬ Meets s.ranges[j].start (s.ranges[j].start + s.ranges[j].length) start (start + length)) →
      (s.ranges[k].enabled = true → ¬ SpanMeets s.ranges[k].start (s.ranges[k].start + s.ranges[k].length) s) →
      ¬ SpanMeets start (start + length) s →
      exec .defineRange s = .next (transmit
        (State.answered .ok [] done e rest
          { s with ranges := s.ranges.set k { attributes with start := start, length := length } }))) ∧
    (k = 0 →
      (∀ t : Tag, s.contexts[t].state.isOpen = true →
        ∀ i < s.contexts[t].count, lookup s.ranges (s.contexts[t].start + i) ≠ 0) →
      exec .defineRange s = .next (transmit
        (State.answered .ok [] done e rest { s with ranges := s.ranges.set 0 attributes })))) ∧
  (∀ (done : List DrqEntry) (e : DrqEntry) (rest : List DrqEntry) (s : State) (k : RangeIx), Ready 2 2 done e rest s →
    k ≠ 0 → param e 1 = k.val →
    (s.ranges[k].enabled = true → ¬ SpanMeets s.ranges[k].start (s.ranges[k].start + s.ranges[k].length) s) →
    exec .disableRange s = .next (transmit
      (State.answered .ok [] done e rest
        { s with
          ranges := s.ranges.set k
            { enabled := false, start := 0, length := 0, slot := none, readLock := false, writeLock := false,
              metaCipher := false, zeroMark := false, linkLock := false, checkMask := 0, tweakBase := 0 } })))

/-- R29, R31, R32: DEFINE RANGE and DISABLE RANGE are refused by the first check that fails, in the order of Table 2-3, with
the table unchanged. -/
def Obligations.RangeDirectivesRefused : Prop :=
  (∀ (done : List DrqEntry) (e : DrqEntry) (rest : List DrqEntry) (s : State), Ready 1 24 done e rest s →
    let start := field e.frame.payload 5 5
    let length := field e.frame.payload 10 6
    let refused (r : Result) := exec .defineRange s = .next (transmit (s.answered r [] done e rest))
    (15 < param e 1 → refused .badParam) ∧
    (16 ≤ param e 2 → param e 2 ≠ 255 → refused .badParam) ∧
    (∀ k : RangeIx, param e 1 = k.val → param e 2 < 16 ∨ param e 2 = 255 →
      let overlaps := ∃ j : RangeIx, j ≠ 0 ∧ j ≠ k ∧ s.ranges[j].enabled = true ∧
        Meets s.ranges[j].start (s.ranges[j].start + s.ranges[j].length) start (start + length)
      (k ≠ 0 → length = 0 → refused .badParam) ∧
      (k ≠ 0 → 1 ≤ length → s.limits.ceiling < start + length → refused .outOfRange) ∧
      (k ≠ 0 → 1 ≤ length → start + length ≤ s.limits.ceiling → overlaps → refused .overlap) ∧
      (k ≠ 0 → 1 ≤ length → start + length ≤ s.limits.ceiling → ¬ overlaps →
        (s.ranges[k].enabled = true ∧ SpanMeets s.ranges[k].start (s.ranges[k].start + s.ranges[k].length) s) ∨
          SpanMeets start (start + length) s → refused .rangeBusy) ∧
      (k = 0 → (∃ t : Tag, s.contexts[t].state.isOpen = true ∧
        ∃ i < s.contexts[t].count, lookup s.ranges (s.contexts[t].start + i) = 0) → refused .rangeBusy))) ∧
  (∀ (done : List DrqEntry) (e : DrqEntry) (rest : List DrqEntry) (s : State), Ready 2 2 done e rest s →
    (param e 1 = 0 ∨ 15 < param e 1 →
      exec .disableRange s = .next (transmit (s.answered .badParam [] done e rest))) ∧
    (∀ k : RangeIx, k ≠ 0 → param e 1 = k.val → s.ranges[k].enabled = true →
      SpanMeets s.ranges[k].start (s.ranges[k].start + s.ranges[k].length) s →
      exec .disableRange s = .next (transmit (s.answered .rangeBusy [] done e rest))))

/-- R33: SET LOCKS writes the two locks of any range, whatever its state and whatever transfers are open, and leaves every
other field; a range index above 15 is BAD_PARAM. -/
def Obligations.SetLocksWritesTwoFields : Prop :=
  ∀ (done : List DrqEntry) (e : DrqEntry) (rest : List DrqEntry) (s : State), Ready 3 3 done e rest s →
    (∀ k : RangeIx, param e 1 = k.val →
      exec .setLocks s = .next (transmit
        (State.answered .ok [] done e rest
          { s with
            ranges := s.ranges.set k
              { s.ranges[k] with
                readLock := (byteAt e.frame.payload 2).getLsbD 0,
                writeLock := (byteAt e.frame.payload 2).getLsbD 1 } }))) ∧
    (15 < param e 1 → exec .setLocks s = .next (transmit (s.answered .badParam [] done e rest)))

/-- R44, R45: SET WRAPPING KEY fills an entry with 64 bytes, half A first, whether or not it was EMPTY and whatever the
bytes, and CLEAR WRAPPING KEY empties it, whether or not it was EMPTY (an EMPTY entry, whose bytes are zero and are read
by nothing, is held as none: log entry 22); an entry number above 3 is BAD_PARAM. Slots keep their keys and their
states. -/
def Obligations.WrappingKeysSetAndCleared : Prop :=
  ∀ (done : List DrqEntry) (e : DrqEntry) (rest : List DrqEntry) (s : State),
    (Ready 4 66 done e rest s →
      (∀ n : EntryIx, param e 1 = n.val → exec .setWrappingKey s = .next (transmit
        (State.answered .ok [] done e rest
          { s with
            wrapping := s.wrapping.set n
              (some { halfA := BitVec.ofNat 256 (field e.frame.payload 2 32),
                      halfB := BitVec.ofNat 256 (field e.frame.payload 34 32) }) }))) ∧
      (3 < param e 1 → exec .setWrappingKey s = .next (transmit (s.answered .badParam [] done e rest)))) ∧
    (Ready 5 2 done e rest s →
      (∀ n : EntryIx, param e 1 = n.val → exec .clearWrappingKey s = .next (transmit
        (State.answered .ok [] done e rest { s with wrapping := s.wrapping.set n none }))) ∧
      (3 < param e 1 → exec .clearWrappingKey s = .next (transmit (s.answered .badParam [] done e rest))))

/-- R48, R53, R54: GENERATE KEY and INSTALL KEY that pass their checks move an EMPTY slot to FILLING and go on: the one asks
for its random bytes, the other opens its record. -/
def Obligations.SlotsBeginToFill : Prop :=
  ∀ (done : List DrqEntry) (e : DrqEntry) (rest : List DrqEntry) (s : State) (k : SlotIx) (n : EntryIx),
    param e 1 = k.val → param e 2 = n.val → s.slots[k].state = .empty → s.wrapping[n] ≠ none →
    let filling := s.slots.set k { s.slots[k] with state := .filling, dataKey := 0, tweakKey := 0, drainSet := [] }
    (Ready 6 5 done e rest s → s.random ≠ .failed →
      exec .generateKey s = .next (transmit
        { s with
          slots := filling,
          du := some ⟨.filling k n (BitVec.ofNat 16 (field e.frame.payload 3 2)), false⟩ })) ∧
    (Ready 7 99 done e rest s → param e 3 = 1 →
      exec .installKey s = .next (transmit
        { s with slots := filling, du := some ⟨.opening k n (slice e.frame.payload 3 96), false⟩ }))

/-- R53 to R55: the four key directives are refused by the first check that fails, with nothing changed: a slot, entry or
mode out of range, the slot's state, the EMPTY entry, then the source, the generation or the record's version. -/
def Obligations.KeyDirectivesRefused : Prop :=
  ∀ (done : List DrqEntry) (e : DrqEntry) (rest : List DrqEntry) (s : State),
    let refused (c : Instr) (r : Result) := exec c s = .next (transmit (s.answered r [] done e rest))
    (∀ c, (Ready 6 5 done e rest s ∧ c = .generateKey) ∨ (Ready 7 99 done e rest s ∧ c = .installKey) ∨
        (Ready 8 6 done e rest s ∧ c = .rekeySlot) →
      (15 < param e 1 ∨ 3 < param e 2 ∨ (c = .rekeySlot ∧ 1 < param e 5) → refused c .badParam) ∧
      (∀ (k : SlotIx) (n : EntryIx), param e 1 = k.val → param e 2 = n.val → (c = .rekeySlot → param e 5 ≤ 1) →
        let wanted := if c = .rekeySlot then SlotState.ready else .empty
        (s.slots[k].state ≠ wanted → refused c .slotState) ∧
        (s.slots[k].state = wanted → s.wrapping[n] = none → refused c .noWrap) ∧
        (s.slots[k].state = wanted → s.wrapping[n] ≠ none → c ≠ .installKey → s.random = .failed →
          refused c .noRandom) ∧
        (s.slots[k].state = wanted → s.wrapping[n] ≠ none → c = .installKey → param e 3 ≠ 1 → refused c .badBlob) ∧
        (s.slots[k].state = wanted → s.wrapping[n] ≠ none → c = .rekeySlot → s.random ≠ .failed →
          s.slots[k].generation = BitVec.ofNat 16 (field e.frame.payload 3 2) → refused c .sameGeneration))) ∧
    (Ready 9 3 done e rest s →
      (15 < param e 1 ∨ 1 < param e 2 → refused .discardKey .badParam) ∧
      (∀ k : SlotIx, param e 1 = k.val → param e 2 ≤ 1 → s.slots[k].state ≠ .ready →
        refused .discardKey .slotState))

/-- R48, R52 to R54, R58: the end of a fill, of the wrapping computation that may follow it, and of the opening of an
installed record. With the named entry filled the slot becomes READY with the new keys and generation, and the RESPONSE
to a fill carries the record; with the entry EMPTY the slot becomes EMPTY and the RESPONSE is NO_WRAP (log entries 6 and
7). A record whose check block does not match leaves the slot EMPTY with WRAP_CHECK. The pin count of the slot stays; it is
zero, since the slot was FILLING (`SlotsFollowTheDirectiveUnit`, log entry 19). In silence after a front link loss
the slot ends so too, the directive's entry is freed and no RESPONSE made (R60, R98, R138). -/
def Obligations.KeyComputationsEnd : Prop :=
  (∀ (k : SlotIx) (n : EntryIx) (g : Generation) (silent : Bool) (done : List DrqEntry) (e : DrqEntry)
    (rest : List DrqEntry) (s : State) (dataKey tweakKey : Key) (nonce : Nonce) (atOnce : Bool),
    let wrap := Task.wrapping k n g dataKey tweakKey nonce
    let ready (w : WrappingKey) : State :=
      State.concluded silent .ok (makeRecord w g nonce dataKey tweakKey) done e rest
        { s with
          slots := s.slots.set k
            { s.slots[k] with state := .ready, dataKey := dataKey, tweakKey := tweakKey, generation := g } }
    let empty : State :=
      State.concluded silent .noWrap [] done e rest
        { s with
          slots := s.slots.set k { s.slots[k] with state := .empty, dataKey := 0, tweakKey := 0, drainSet := [] } }
    (Runs (.filling k n g) silent done e rest s → s.random = .ready →
      (s.wrapping[n] = none → exec (.fillEnd dataKey tweakKey nonce atOnce) s = .next (transmit empty)) ∧
      (∀ w, s.wrapping[n] = some w →
        exec (.fillEnd dataKey tweakKey nonce true) s = .next (transmit (ready w)) ∧
        exec (.fillEnd dataKey tweakKey nonce false) s =
          .next (transmit { s with du := some { task := wrap, silent := silent } }))) ∧
    (Runs wrap silent done e rest s →
      (s.wrapping[n] = none → exec .wrappedRecordMade s = .next (transmit empty)) ∧
      ∀ w, s.wrapping[n] = some w → exec .wrappedRecordMade s = .next (transmit (ready w)))) ∧
  (∀ (k : SlotIx) (n : EntryIx) (record : Bytes) (silent : Bool) (done : List DrqEntry) (e : DrqEntry)
    (rest : List DrqEntry) (s : State),
    Runs (.opening k n record) silent done e rest s →
    let empty (r : Result) : State :=
      State.concluded silent r [] done e rest
        { s with
          slots := s.slots.set k { s.slots[k] with state := .empty, dataKey := 0, tweakKey := 0, drainSet := [] } }
    (s.wrapping[n] = none → exec .recordOpeningEnd s = .next (transmit (empty .noWrap))) ∧
    (∀ w, s.wrapping[n] = some w →
      (openRecord w record = none → exec .recordOpeningEnd s = .next (transmit (empty .wrapCheck))) ∧
      (∀ dataKey tweakKey g, openRecord w record = some (dataKey, tweakKey, g) →
        exec .recordOpeningEnd s = .next (transmit
          (State.concluded silent .ok [] done e rest
            { s with
              slots := s.slots.set k
                { s.slots[k] with state := .ready, dataKey := dataKey, tweakKey := tweakKey, generation := g } })))))

/-- R55, R58, R59: a REKEY SLOT or DISCARD KEY of a slot that no open transfer uses drains at once: the keys are gone; the
one goes on to its fill with the slot FILLING, the other is answered OK with the slot EMPTY. Both keep the old
generation, and either drain mode does the same. -/
def Obligations.UnusedSlotDrainsAtOnce : Prop :=
  ∀ (done : List DrqEntry) (e : DrqEntry) (rest : List DrqEntry) (s : State) (k : SlotIx),
    param e 1 = k.val → s.slots[k].state = .ready →
    (∀ t : Tag, s.contexts[t].state.isOpen = true → ∀ i < s.contexts[t].count,
      let r := s.ranges[lookup s.ranges (s.contexts[t].start + i)]
      ¬ (r.enabled = true ∧ r.slot = some k)) →
    (∀ n : EntryIx, Ready 8 6 done e rest s → param e 2 = n.val → param e 5 ≤ 1 → s.wrapping[n] ≠ none →
      s.random ≠ .failed → s.slots[k].generation ≠ BitVec.ofNat 16 (field e.frame.payload 3 2) →
      exec .rekeySlot s = .next (transmit
        { s with
          slots := s.slots.set k { s.slots[k] with state := .filling, dataKey := 0, tweakKey := 0, drainSet := [] },
          du := some ⟨.filling k n (BitVec.ofNat 16 (field e.frame.payload 3 2)), false⟩ })) ∧
    (Ready 9 3 done e rest s → param e 2 ≤ 1 →
      exec .discardKey s = .next (transmit
        (State.answered .ok [] done e rest
          { s with
            slots := s.slots.set k { s.slots[k] with state := .empty, dataKey := 0, tweakKey := 0, drainSet := [] } })))

/-- R55 to R59, R78, R79, R157: a REKEY SLOT or DISCARD KEY of a slot in use makes it DRAINING with its drain set. WAIT
starts the drain timer; CUT, and the expiry of that timer with DRAIN_CUT, end the ACTIVE and FLUSHING transfers of the set
ERASED, with all that each clears away (`State.cut`); where nothing waits at a head and nothing is held, they stay in
ENDING with their jobs in flight. A context that enters REPORTING or FREE leaves the set (`leaveDrain`), and with the last
one the drain is complete in the same event: the keys are gone and the generation stays; DISCARD KEY leaves the slot EMPTY
and is answered OK, REKEY SLOT leaves it FILLING and asks for its fill, whatever its wrapping entry holds by then (an
entry emptied during the drain is found at the end of the fill: log entry 7), or, with the source FAILED, EMPTY with
RANDOM_FAILED; the pin count is zero by then (`SlotsFollowTheDirectiveUnit`); in silence after a front link loss no
RESPONSE is made. The COMPLETION stands before the RESPONSE (log entry 10). The timer's expiry comes at its deadline, to
which an expiry command lets time pass, or now when that has passed (log entry 3); without a running timer, or while
another timer would be late by then, it does not arise (log entry 2). In an idle step the timer, when it is due first,
expires as by its command (log entry 3). -/
def Obligations.SlotInUseDrains : Prop :=
  (∀ (s : State) (k : SlotIx),
    let erased (tags : List Tag) : Vector Context 64 :=
      Vector.ofFn (fun t : Tag => if t ∈ tags ∧ s.contexts[t].state.running = true
        then { s.contexts[t] with state := .ending, ending := some .erased, firstFail := none, deadline := none }
        else s.contexts[t])
    let quiet (tags : List Tag) := s.fiq = [] ∧ s.miq = [] ∧ (∀ l : LaneIx, heldRead s.lanes[l] = none) ∧
      ∀ t ∈ tags, s.contexts[t].jobs ≠ 0
    let draining := s.slots.set k { s.slots[k] with state := .draining, drainSet := drainSetOf k s }
    (∀ done e rest c goal mode, s.slots[k].state = .ready → drainSetOf k s ≠ [] → param e 1 = k.val →
      (∃ n : EntryIx, Ready 8 6 done e rest s ∧ c = .rekeySlot ∧ param e 2 = n.val ∧ param e 5 = mode ∧
        s.wrapping[n] ≠ none ∧ s.random ≠ .failed ∧
        s.slots[k].generation ≠ BitVec.ofNat 16 (field e.frame.payload 3 2) ∧
        goal = .rekey n (BitVec.ofNat 16 (field e.frame.payload 3 2))) ∨
      (Ready 9 3 done e rest s ∧ c = .discardKey ∧ param e 2 = mode ∧ goal = .discard) →
      (mode = 0 → exec c s = .next (transmit
        { s with
          slots := draining,
          du := some ⟨.draining k goal (some (s.time + BitVec.ofNat 64 (1000 * s.limits.drain))), false⟩ })) ∧
      (mode = 1 →
        exec c s = .next (transmit (heads (State.cut (drainSetOf k s)
          { s with slots := draining, du := some ⟨.draining k goal none, false⟩ }))) ∧
        (quiet (drainSetOf k s) → exec c s = .next (transmit
          { s with
            slots := draining, du := some ⟨.draining k goal none, false⟩, contexts := erased (drainSetOf k s) })))) ∧
    (∀ goal d silent, Awake s → s.du = some ⟨.draining k goal (some d), silent⟩ →
      let u : State :=
        { s.flagged Flag.drainCut with time := s.expiryAt d, du := some ⟨.draining k goal none, silent⟩ }
      (NoneLate .drain (s.expiryAt d) s →
        exec .drainTimerExpiry s = .next (transmit (heads (State.cut s.slots[k].drainSet u))) ∧
        (quiet s.slots[k].drainSet →
          exec .drainTimerExpiry s = .next (transmit { u with contexts := erased s.slots[k].drainSet }))) ∧
      (¬ NoneLate .drain (s.expiryAt d) s → exec .drainTimerExpiry s = .next s)) ∧
    (Awake s → (∀ k' goal d silent, s.du ≠ some ⟨.draining k' goal (some d), silent⟩) →
      exec .drainTimerExpiry s = .next s) ∧
    (Awake s → TimersInTime s → FirstDue .drain s → ∀ u, exec .drainTimerExpiry s = .next u → tick s = tick u)) ∧
  (∀ (t : Tag) (s : State),
    ((∀ k goal timer silent, s.du = some ⟨.draining k goal timer, silent⟩ → t ∉ s.slots[k].drainSet) →
      leaveDrain t s = s) ∧
    ∀ k goal timer silent, s.du = some ⟨.draining k goal timer, silent⟩ → t ∈ s.slots[k].drainSet →
      let left := s.slots[k].drainSet.filter (fun i => i ≠ t)
      let bare (x : SlotState) : State :=
        { s with slots := s.slots.set k { s.slots[k] with state := x, dataKey := 0, tweakKey := 0, drainSet := [] } }
      (left ≠ [] → leaveDrain t s = { s with slots := s.slots.set k { s.slots[k] with drainSet := left } }) ∧
      (left = [] → ∀ done e rest, Next done e rest s →
        (goal = .discard → leaveDrain t s = State.concluded silent .ok [] done e rest (bare .empty)) ∧
        (∀ n g, goal = .rekey n g →
          (s.random ≠ .failed →
            leaveDrain t s = { bare .filling with du := some ⟨.filling k n g, silent⟩ }) ∧
          (s.random = .failed →
            leaveDrain t s = State.concluded silent .randomFailed [] done e rest (bare .empty))))) ∧
  (∀ (l : LaneIx) (j : Job) (k : SlotIx) (goal : DrainGoal) (timer : Option Time) (silent : Bool)
    (done : List DrqEntry) (e : DrqEntry) (rest : List DrqEntry) (s : State),
    Runs (.draining k goal timer) silent done e rest s → s.lanes[l] = .running j →
    (∃ region clear trailer, j.sector = .ciphered region clear trailer) → s.contexts[j.tag].state = .ending →
    s.contexts[j.tag].suppressed = false → s.contexts[j.tag].jobs = 1 → s.slots[k].drainSet = [j.tag] →
    let x := s.released l j
    let c : Context := { x.contexts[j.tag] with state := .reporting, deadline := none }
    let bare (y : SlotState) : State :=
      { x with
        contexts := x.contexts.set j.tag c, rpq := x.rpq ++ [completionFrame j.tag c],
        slots := x.slots.set k { x.slots[k] with state := y, dataKey := 0, tweakKey := 0, drainSet := [] } }
    (goal = .discard →
      exec (.laneJobCompletion l) s = .next (transmit (State.concluded silent .ok [] done e rest (bare .empty)))) ∧
    (∀ n g, goal = .rekey n g →
      (s.random ≠ .failed → exec (.laneJobCompletion l) s = .next (transmit
        { bare .filling with du := some ⟨.filling k n g, silent⟩ })) ∧
      (s.random = .failed → exec (.laneJobCompletion l) s = .next (transmit
        (State.concluded silent .randomFailed [] done e rest (bare .empty))))))

/-- R77, R79: ABANDON TRANSFER ends an ACTIVE or FLUSHING transfer ABANDONED, with all that it clears away, and is answered
OK; a transfer in another state is NOT_OPEN, and a tag above 63 BAD_PARAM. The COMPLETION stands before the RESPONSE
(log entry 10). -/
def Obligations.AbandonTransferEnds : Prop :=
  ∀ (done : List DrqEntry) (e : DrqEntry) (rest : List DrqEntry) (s : State), Ready 10 2 done e rest s →
    (∀ t : Tag, param e 1 = t.val →
      (s.contexts[t].state.running = true →
        exec .abandonTransfer s = .next (transmit (heads
          (State.answered .ok [] done e rest (s.cleared t .abandoned none)))) ∧
        (Unencumbered t s → AtRest s → exec .abandonTransfer s = .next (transmit
          (State.answered .ok [] done e rest (s.ended t .abandoned none))))) ∧
      (s.contexts[t].state.running = false →
        exec .abandonTransfer s = .next (transmit (s.answered .notOpen [] done e rest)))) ∧
    (63 < param e 1 → exec .abandonTransfer s = .next (transmit (s.answered .badParam [] done e rest)))

/-- R94, R142, R143: SET LIMITS stores every value, the marks and the drain timeout clamped, tests the new marks against
both intake queues, and answers with what it stored; it is refused by the first check that fails, with nothing changed. -/
def Obligations.SetLimitsStores : Prop :=
  ∀ (done : List DrqEntry) (e : DrqEntry) (rest : List DrqEntry) (s : State), Ready 11 18 done e rest s →
    let p := e.frame.payload
    let ceiling := field p 1 6
    let high (h : Nat) := max 1 (min 16 h)
    let low (h l : Nat) := if l < high h then l else high h - 1
    let mask := BitVec.ofNat 15 (field p 16 2)
    let l : Limits :=
      { ceiling := ceiling, fiqHigh := high (param e 7), fiqLow := low (param e 7) (param e 8),
        miqHigh := high (param e 9), miqLow := low (param e 9) (param e 10), idle := field p 11 2,
        drain := max 1 (field p 13 2), selector := param e 15 }
    let conflict :=
      (∃ k : RangeIx, k ≠ 0 ∧ s.ranges[k].enabled = true ∧ ceiling < s.ranges[k].start + s.ranges[k].length) ∨
      (∃ t : Tag, s.contexts[t].state.isOpen = true ∧ ceiling < s.contexts[t].start + s.contexts[t].count)
    let bad := ceiling = 0 ∨ 2 ^ 40 < ceiling ∨ 7 < param e 15
    (bad → exec .setLimits s = .next (transmit (s.answered .badParam [] done e rest))) ∧
    (¬ bad → conflict → exec .setLimits s = .next (transmit (s.answered .rangeConflict [] done e rest))) ∧
    (¬ bad → ¬ conflict → exec .setLimits s = .next (transmit
      (State.answered .ok (limitsView l mask) done e rest
        { s with
          limits := l,
          events := { flags := s.events.flags, mask := mask, attention := decide (s.events.flags &&& mask ≠ 0) },
          front := markTest l.fiqHigh l.fiqLow s.fiq.length s.front,
          media := markTest l.miqHigh l.miqLow s.miq.length s.media })))

/-- R144: QUERY answers OK with the number of its view and the view as it stands, and changes no state; an index out of
range is BAD_PARAM. So is a selector that names no view; the table of commands has no row for that QUERY, and that it is
executed under UNKNOWN_DIRECTIVE is the model's choice (log entry 13). -/
def Obligations.QueriesAnswer : Prop :=
  ∀ (done : List DrqEntry) (e : DrqEntry) (rest : List DrqEntry) (s : State), Ready 12 3 done e rest s →
    let bad (c : Instr) := exec c s = .next (transmit (s.answered .badParam [] done e rest))
    (param e 1 = 0 → exec .queryEngine s = .next (transmit (s.answered .ok (0 :: engineView s) done e rest))) ∧
    (param e 1 = 1 →
      (∀ k : RangeIx, param e 2 = k.val →
        exec .queryRange s = .next (transmit (s.answered .ok (1 :: rangeView k s.ranges[k]) done e rest))) ∧
      (15 < param e 2 → bad .queryRange)) ∧
    (param e 1 = 2 →
      (∀ k : SlotIx, param e 2 = k.val →
        exec .querySlot s = .next (transmit (s.answered .ok (2 :: slotView k s) done e rest))) ∧
      (15 < param e 2 → bad .querySlot)) ∧
    (param e 1 = 3 →
      (∀ t : Tag, param e 2 = t.val →
        exec .queryContext s =
          .next (transmit (s.answered .ok (3 :: contextView t s.time s.contexts[t]) done e rest))) ∧
      (63 < param e 2 → bad .queryContext)) ∧
    (param e 1 = 4 → exec .queryLimits s =
      .next (transmit (s.answered .ok (4 :: limitsView s.limits s.events.mask) done e rest))) ∧
    (4 < param e 1 → bad .unknownDirective)

/-- R146: CLEAR EVENTS clears each flag whose mask bit is set and leaves the others; its data are the fifteen flags as they
stood before; ATTENTION follows. -/
def Obligations.ClearEventsClears : Prop :=
  ∀ (done : List DrqEntry) (e : DrqEntry) (rest : List DrqEntry) (s : State), Ready 13 3 done e rest s →
    let mask := BitVec.ofNat 15 (field e.frame.payload 1 2)
    ∃ flags : BitVec 15,
      (∀ f : Fin 15, flags.getLsbD f.val = (s.events.flags.getLsbD f.val && !mask.getLsbD f.val)) ∧
      exec .clearEvents s = .next (transmit
        (State.answered .ok (leBytes 2 s.events.flags.toNat) done e rest
          { s with
            events :=
              { flags := flags, mask := s.events.mask, attention := decide (flags &&& s.events.mask ≠ 0) } }))

/-- R99, R148, R157: RESET ENGINE gives every block its power-on value but for what R148 lists (the links, the flags
POWER_ON and ENGINE_RESET, a pending GO, the entry of the RESET ENGINE and its RESPONSE) and for the time base, which an
engine reset does not change (R157). A GO is pending where the partner was last told HOLD, and what the partner was last
told since its link came UP stays (R99); a flow frame in transmission is sent to its end (R99), a queued frame in
transmission is abandoned (log entry 12). That the last frame sent on each link (`line`, a field of the model's own) stays
is the model's choice (log entry 20). The Directive Queue keeps the entry of the RESET ENGINE, and its RESPONSE is the
first frame of the Report Queue. -/
def Obligations.ResetEngineResets : Prop :=
  ∀ (done : List DrqEntry) (e : DrqEntry) (rest : List DrqEntry) (s : State), Ready 14 1 done e rest s →
    let reset (x : Port) : Port :=
      { link := x.link, held := false, peerHold := false,
        pendingFlow := if x.told = some .hold then some .go else none, told := x.told,
        sending := if x.sending = some (.flow .hold) ∨ x.sending = some (.flow .go) then x.sending else none,
        line := x.line }
    let flags := (s.events.flags &&& 1#15) ||| 2#15
    exec .resetEngine s = .next (transmit
      { State.reset with
        time := s.time, front := reset s.front, media := reset s.media, drq := [{ e with executed := true }],
        rpq := [responseFrame e.frame .ok []], events := { flags := flags, mask := 0x7FFF#15, attention := true },
        pending := s.pending })
end

