-- ==== Sys2Proof/Laws/Bytes.lean ====
section
/-! SUPPORT. Little-endian numbers and byte sequences: lengths, round trips, and the reading of a field across a
concatenation. -/

namespace Sys2Proof.Machine

/-- A byte is the one its number says. -/
theorem byte_eq_iff (b : Byte) (n : Nat) (hn : n < 256) : b = BitVec.ofNat 8 n ↔ b.toNat = n := by
  constructor
  · rintro rfl
    exact Nat.mod_eq_of_lt hn
  · rintro rfl
    simp

@[simp] theorem leBytes_length (k n : Nat) : (leBytes k n).length = k := by
  induction k generalizing n with
  | zero => rfl
  | succ k ih => simp [leBytes, ih]

/-- The number in the bytes of a number: its low bytes. -/
theorem leNat_leBytes (k n : Nat) : leNat (leBytes k n) = n % 256 ^ k := by
  induction k generalizing n with
  | zero => simp [leBytes, leNat, Nat.mod_one]
  | succ k ih =>
    simp only [leBytes, leNat, ih, BitVec.toNat_ofNat]
    change n % 256 + _ = _
    rw [pow_succ' 256 k, Nat.mod_mul]

/-- A byte sequence is the bytes of its number. -/
theorem leBytes_leNat (bs : Bytes) : leBytes bs.length (leNat bs) = bs := by
  induction bs with
  | nil => rfl
  | cons b bs ih =>
    have hb : b.toNat < 256 := b.isLt
    have h1 : (b.toNat + 256 * leNat bs) / 256 = leNat bs := by omega
    have h2 : BitVec.ofNat 8 (b.toNat + 256 * leNat bs) = b := by
      apply BitVec.eq_of_toNat_eq
      simp only [BitVec.toNat_ofNat]
      omega
    simp only [List.length_cons, leBytes, leNat, h1, h2, ih]

/-- The number of a byte sequence lies below the bound of its length. -/
theorem leNat_lt (bs : Bytes) : leNat bs < 256 ^ bs.length := by
  induction bs with
  | nil => simp [leNat]
  | cons b bs ih =>
    have hb : b.toNat < 256 := b.isLt
    simp only [leNat, List.length_cons, Nat.pow_succ]
    omega

@[simp] theorem slice_zero (bs : Bytes) (len : Nat) : slice bs 0 len = bs.take len := by simp [slice]

/-- A slice behind the first part of a concatenation lies in the second. -/
theorem slice_append_right (xs ys : Bytes) (off len : Nat) : slice (xs ++ ys) (xs.length + off) len = slice ys off len := by
  simp [slice, List.drop_append, List.drop_eq_nil_of_le]

/-- A slice within the first part of a concatenation. -/
theorem slice_append_left (xs ys : Bytes) {off len : Nat} (h : off + len ≤ xs.length) :
    slice (xs ++ ys) off len = slice xs off len := by
  have hd : off ≤ xs.length := by omega
  rw [slice, slice, List.drop_append_of_le_length hd, List.take_append_of_le_length (by simp; omega)]

/-- The bytes of a block are sixteen, and spell it. -/
theorem blockOfBytes_bytesOfBlock (b : Block) : blockOfBytes (bytesOfBlock b) = b := by
  apply BitVec.eq_of_toNat_eq
  have h : (leBytes 16 b.toNat).take 16 = leBytes 16 b.toNat := List.take_of_length_le (by simp)
  simp only [blockOfBytes, bytesOfBlock, h, leNat_leBytes, BitVec.toNat_ofNat]
  have := b.isLt
  omega

@[simp] theorem bytesOfBlock_length (b : Block) : (bytesOfBlock b).length = 16 := by simp [bytesOfBlock]

/-- Sixteen bytes are the bytes of the block they spell. -/
theorem bytesOfBlock_blockOfBytes {bs : Bytes} (h : bs.length = 16) : bytesOfBlock (blockOfBytes bs) = bs := by
  have hl := leNat_lt bs
  rw [h] at hl
  have ht : bs.take 16 = bs := List.take_of_length_le (by omega)
  rw [bytesOfBlock, blockOfBytes, ht, BitVec.toNat_ofNat, Nat.mod_eq_of_lt (by omega)]
  have := leBytes_leNat bs
  rwa [h] at this

end Sys2Proof.Machine
end

