-- ==== Sys2Proof/Laws/State.lean ====
section
/-! SUPPORT. One lemma for each field of the state under each of the single-record updates, so that no later proof unfolds
an update; the reads of a table after a write; and the reads of a port after a write. -/

namespace Sys2Proof.Machine

/-! ### A table after a write -/

/-- Reading a record just written gives what was written. -/
@[simp] theorem set_get_self {α : Type} {n : Nat} (v : Vector α n) (i : Fin n) (x : α) : (v.set i x)[i] = x := by
  simp

/-- Writing one record leaves every other as it was. -/
theorem set_get_ne {α : Type} {n : Nat} (v : Vector α n) {i j : Fin n} (x : α) (h : i ≠ j) : (v.set i x)[j] = v[j] := by
  have h' : i.val ≠ j.val := fun e => h (Fin.ext e)
  simp [h']

/-- Reading a table after a write, in both cases. -/
theorem set_get {α : Type} {n : Nat} (v : Vector α n) (i j : Fin n) (x : α) :
    (v.set i x)[j] = if i = j then x else v[j] := by
  by_cases h : i = j
  · subst h; simp
  · rw [set_get_ne v x h, if_neg h]

/-- The later of two writes of one record stands. -/
@[simp] theorem set_set_self {α : Type} {n : Nat} (v : Vector α n) (i : Fin n) (x y : α) :
    (v.set i x).set i y = v.set i y := by
  ext j hj
  simp only [Vector.getElem_set]
  split <;> rfl

/-- Writing back what a table holds changes nothing. -/
@[simp] theorem set_get_back {α : Type} {n : Nat} (v : Vector α n) (i : Fin n) : v.set i v[i] = v := by
  ext j hj
  simp only [Vector.getElem_set]
  split
  · rename_i h; subst h; rfl
  · rfl

/-! ### putContext -/

@[simp] theorem putContext_inReset (t : Tag) (c : Context) (s : State) : (putContext t c s).inReset = s.inReset := rfl
@[simp] theorem putContext_time (t : Tag) (c : Context) (s : State) : (putContext t c s).time = s.time := rfl
@[simp] theorem putContext_front (t : Tag) (c : Context) (s : State) : (putContext t c s).front = s.front := rfl
@[simp] theorem putContext_media (t : Tag) (c : Context) (s : State) : (putContext t c s).media = s.media := rfl
@[simp] theorem putContext_autoLock (t : Tag) (c : Context) (s : State) : (putContext t c s).autoLock = s.autoLock := rfl
@[simp] theorem putContext_frontTurn (t : Tag) (c : Context) (s : State) : (putContext t c s).frontTurn = s.frontTurn := rfl
@[simp] theorem putContext_fiq (t : Tag) (c : Context) (s : State) : (putContext t c s).fiq = s.fiq := rfl
@[simp] theorem putContext_miq (t : Tag) (c : Context) (s : State) : (putContext t c s).miq = s.miq := rfl
@[simp] theorem putContext_drq (t : Tag) (c : Context) (s : State) : (putContext t c s).drq = s.drq := rfl
@[simp] theorem putContext_moq (t : Tag) (c : Context) (s : State) : (putContext t c s).moq = s.moq := rfl
@[simp] theorem putContext_fsq (t : Tag) (c : Context) (s : State) : (putContext t c s).fsq = s.fsq := rfl
@[simp] theorem putContext_rpq (t : Tag) (c : Context) (s : State) : (putContext t c s).rpq = s.rpq := rfl
@[simp] theorem putContext_verdict (t : Tag) (c : Context) (s : State) : (putContext t c s).verdict = s.verdict := rfl
@[simp] theorem putContext_ranges (t : Tag) (c : Context) (s : State) : (putContext t c s).ranges = s.ranges := rfl
@[simp] theorem putContext_slots (t : Tag) (c : Context) (s : State) : (putContext t c s).slots = s.slots := rfl
@[simp] theorem putContext_wrapping (t : Tag) (c : Context) (s : State) : (putContext t c s).wrapping = s.wrapping := rfl
@[simp] theorem putContext_random (t : Tag) (c : Context) (s : State) : (putContext t c s).random = s.random := rfl
@[simp] theorem putContext_contexts (t : Tag) (c : Context) (s : State) : (putContext t c s).contexts = s.contexts.set t c := rfl
@[simp] theorem putContext_lanes (t : Tag) (c : Context) (s : State) : (putContext t c s).lanes = s.lanes := rfl
@[simp] theorem putContext_laneTurn (t : Tag) (c : Context) (s : State) : (putContext t c s).laneTurn = s.laneTurn := rfl
@[simp] theorem putContext_moqHold (t : Tag) (c : Context) (s : State) : (putContext t c s).moqHold = s.moqHold := rfl
@[simp] theorem putContext_fsqHold (t : Tag) (c : Context) (s : State) : (putContext t c s).fsqHold = s.fsqHold := rfl
@[simp] theorem putContext_du (t : Tag) (c : Context) (s : State) : (putContext t c s).du = s.du := rfl
@[simp] theorem putContext_limits (t : Tag) (c : Context) (s : State) : (putContext t c s).limits = s.limits := rfl
@[simp] theorem putContext_events (t : Tag) (c : Context) (s : State) : (putContext t c s).events = s.events := rfl
@[simp] theorem putContext_pending (t : Tag) (c : Context) (s : State) : (putContext t c s).pending = s.pending := rfl

/-! ### putSlot -/

@[simp] theorem putSlot_inReset (k : SlotIx) (r : SlotRecord) (s : State) : (putSlot k r s).inReset = s.inReset := rfl
@[simp] theorem putSlot_time (k : SlotIx) (r : SlotRecord) (s : State) : (putSlot k r s).time = s.time := rfl
@[simp] theorem putSlot_front (k : SlotIx) (r : SlotRecord) (s : State) : (putSlot k r s).front = s.front := rfl
@[simp] theorem putSlot_media (k : SlotIx) (r : SlotRecord) (s : State) : (putSlot k r s).media = s.media := rfl
@[simp] theorem putSlot_autoLock (k : SlotIx) (r : SlotRecord) (s : State) : (putSlot k r s).autoLock = s.autoLock := rfl
@[simp] theorem putSlot_frontTurn (k : SlotIx) (r : SlotRecord) (s : State) : (putSlot k r s).frontTurn = s.frontTurn := rfl
@[simp] theorem putSlot_fiq (k : SlotIx) (r : SlotRecord) (s : State) : (putSlot k r s).fiq = s.fiq := rfl
@[simp] theorem putSlot_miq (k : SlotIx) (r : SlotRecord) (s : State) : (putSlot k r s).miq = s.miq := rfl
@[simp] theorem putSlot_drq (k : SlotIx) (r : SlotRecord) (s : State) : (putSlot k r s).drq = s.drq := rfl
@[simp] theorem putSlot_moq (k : SlotIx) (r : SlotRecord) (s : State) : (putSlot k r s).moq = s.moq := rfl
@[simp] theorem putSlot_fsq (k : SlotIx) (r : SlotRecord) (s : State) : (putSlot k r s).fsq = s.fsq := rfl
@[simp] theorem putSlot_rpq (k : SlotIx) (r : SlotRecord) (s : State) : (putSlot k r s).rpq = s.rpq := rfl
@[simp] theorem putSlot_verdict (k : SlotIx) (r : SlotRecord) (s : State) : (putSlot k r s).verdict = s.verdict := rfl
@[simp] theorem putSlot_ranges (k : SlotIx) (r : SlotRecord) (s : State) : (putSlot k r s).ranges = s.ranges := rfl
@[simp] theorem putSlot_slots (k : SlotIx) (r : SlotRecord) (s : State) : (putSlot k r s).slots = s.slots.set k r := rfl
@[simp] theorem putSlot_wrapping (k : SlotIx) (r : SlotRecord) (s : State) : (putSlot k r s).wrapping = s.wrapping := rfl
@[simp] theorem putSlot_random (k : SlotIx) (r : SlotRecord) (s : State) : (putSlot k r s).random = s.random := rfl
@[simp] theorem putSlot_contexts (k : SlotIx) (r : SlotRecord) (s : State) : (putSlot k r s).contexts = s.contexts := rfl
@[simp] theorem putSlot_lanes (k : SlotIx) (r : SlotRecord) (s : State) : (putSlot k r s).lanes = s.lanes := rfl
@[simp] theorem putSlot_laneTurn (k : SlotIx) (r : SlotRecord) (s : State) : (putSlot k r s).laneTurn = s.laneTurn := rfl
@[simp] theorem putSlot_moqHold (k : SlotIx) (r : SlotRecord) (s : State) : (putSlot k r s).moqHold = s.moqHold := rfl
@[simp] theorem putSlot_fsqHold (k : SlotIx) (r : SlotRecord) (s : State) : (putSlot k r s).fsqHold = s.fsqHold := rfl
@[simp] theorem putSlot_du (k : SlotIx) (r : SlotRecord) (s : State) : (putSlot k r s).du = s.du := rfl
@[simp] theorem putSlot_limits (k : SlotIx) (r : SlotRecord) (s : State) : (putSlot k r s).limits = s.limits := rfl
@[simp] theorem putSlot_events (k : SlotIx) (r : SlotRecord) (s : State) : (putSlot k r s).events = s.events := rfl
@[simp] theorem putSlot_pending (k : SlotIx) (r : SlotRecord) (s : State) : (putSlot k r s).pending = s.pending := rfl

/-! ### putRange -/

@[simp] theorem putRange_inReset (k : RangeIx) (r : RangeRecord) (s : State) : (putRange k r s).inReset = s.inReset := rfl
@[simp] theorem putRange_time (k : RangeIx) (r : RangeRecord) (s : State) : (putRange k r s).time = s.time := rfl
@[simp] theorem putRange_front (k : RangeIx) (r : RangeRecord) (s : State) : (putRange k r s).front = s.front := rfl
@[simp] theorem putRange_media (k : RangeIx) (r : RangeRecord) (s : State) : (putRange k r s).media = s.media := rfl
@[simp] theorem putRange_autoLock (k : RangeIx) (r : RangeRecord) (s : State) : (putRange k r s).autoLock = s.autoLock := rfl
@[simp] theorem putRange_frontTurn (k : RangeIx) (r : RangeRecord) (s : State) : (putRange k r s).frontTurn = s.frontTurn := rfl
@[simp] theorem putRange_fiq (k : RangeIx) (r : RangeRecord) (s : State) : (putRange k r s).fiq = s.fiq := rfl
@[simp] theorem putRange_miq (k : RangeIx) (r : RangeRecord) (s : State) : (putRange k r s).miq = s.miq := rfl
@[simp] theorem putRange_drq (k : RangeIx) (r : RangeRecord) (s : State) : (putRange k r s).drq = s.drq := rfl
@[simp] theorem putRange_moq (k : RangeIx) (r : RangeRecord) (s : State) : (putRange k r s).moq = s.moq := rfl
@[simp] theorem putRange_fsq (k : RangeIx) (r : RangeRecord) (s : State) : (putRange k r s).fsq = s.fsq := rfl
@[simp] theorem putRange_rpq (k : RangeIx) (r : RangeRecord) (s : State) : (putRange k r s).rpq = s.rpq := rfl
@[simp] theorem putRange_verdict (k : RangeIx) (r : RangeRecord) (s : State) : (putRange k r s).verdict = s.verdict := rfl
@[simp] theorem putRange_ranges (k : RangeIx) (r : RangeRecord) (s : State) : (putRange k r s).ranges = s.ranges.set k r := rfl
@[simp] theorem putRange_slots (k : RangeIx) (r : RangeRecord) (s : State) : (putRange k r s).slots = s.slots := rfl
@[simp] theorem putRange_wrapping (k : RangeIx) (r : RangeRecord) (s : State) : (putRange k r s).wrapping = s.wrapping := rfl
@[simp] theorem putRange_random (k : RangeIx) (r : RangeRecord) (s : State) : (putRange k r s).random = s.random := rfl
@[simp] theorem putRange_contexts (k : RangeIx) (r : RangeRecord) (s : State) : (putRange k r s).contexts = s.contexts := rfl
@[simp] theorem putRange_lanes (k : RangeIx) (r : RangeRecord) (s : State) : (putRange k r s).lanes = s.lanes := rfl
@[simp] theorem putRange_laneTurn (k : RangeIx) (r : RangeRecord) (s : State) : (putRange k r s).laneTurn = s.laneTurn := rfl
@[simp] theorem putRange_moqHold (k : RangeIx) (r : RangeRecord) (s : State) : (putRange k r s).moqHold = s.moqHold := rfl
@[simp] theorem putRange_fsqHold (k : RangeIx) (r : RangeRecord) (s : State) : (putRange k r s).fsqHold = s.fsqHold := rfl
@[simp] theorem putRange_du (k : RangeIx) (r : RangeRecord) (s : State) : (putRange k r s).du = s.du := rfl
@[simp] theorem putRange_limits (k : RangeIx) (r : RangeRecord) (s : State) : (putRange k r s).limits = s.limits := rfl
@[simp] theorem putRange_events (k : RangeIx) (r : RangeRecord) (s : State) : (putRange k r s).events = s.events := rfl
@[simp] theorem putRange_pending (k : RangeIx) (r : RangeRecord) (s : State) : (putRange k r s).pending = s.pending := rfl

/-! ### putEntry -/

@[simp] theorem putEntry_inReset (e : EntryIx) (w : Option WrappingKey) (s : State) : (putEntry e w s).inReset = s.inReset := rfl
@[simp] theorem putEntry_time (e : EntryIx) (w : Option WrappingKey) (s : State) : (putEntry e w s).time = s.time := rfl
@[simp] theorem putEntry_front (e : EntryIx) (w : Option WrappingKey) (s : State) : (putEntry e w s).front = s.front := rfl
@[simp] theorem putEntry_media (e : EntryIx) (w : Option WrappingKey) (s : State) : (putEntry e w s).media = s.media := rfl
@[simp] theorem putEntry_autoLock (e : EntryIx) (w : Option WrappingKey) (s : State) : (putEntry e w s).autoLock = s.autoLock := rfl
@[simp] theorem putEntry_frontTurn (e : EntryIx) (w : Option WrappingKey) (s : State) : (putEntry e w s).frontTurn = s.frontTurn := rfl
@[simp] theorem putEntry_fiq (e : EntryIx) (w : Option WrappingKey) (s : State) : (putEntry e w s).fiq = s.fiq := rfl
@[simp] theorem putEntry_miq (e : EntryIx) (w : Option WrappingKey) (s : State) : (putEntry e w s).miq = s.miq := rfl
@[simp] theorem putEntry_drq (e : EntryIx) (w : Option WrappingKey) (s : State) : (putEntry e w s).drq = s.drq := rfl
@[simp] theorem putEntry_moq (e : EntryIx) (w : Option WrappingKey) (s : State) : (putEntry e w s).moq = s.moq := rfl
@[simp] theorem putEntry_fsq (e : EntryIx) (w : Option WrappingKey) (s : State) : (putEntry e w s).fsq = s.fsq := rfl
@[simp] theorem putEntry_rpq (e : EntryIx) (w : Option WrappingKey) (s : State) : (putEntry e w s).rpq = s.rpq := rfl
@[simp] theorem putEntry_verdict (e : EntryIx) (w : Option WrappingKey) (s : State) : (putEntry e w s).verdict = s.verdict := rfl
@[simp] theorem putEntry_ranges (e : EntryIx) (w : Option WrappingKey) (s : State) : (putEntry e w s).ranges = s.ranges := rfl
@[simp] theorem putEntry_slots (e : EntryIx) (w : Option WrappingKey) (s : State) : (putEntry e w s).slots = s.slots := rfl
@[simp] theorem putEntry_wrapping (e : EntryIx) (w : Option WrappingKey) (s : State) : (putEntry e w s).wrapping = s.wrapping.set e w := rfl
@[simp] theorem putEntry_random (e : EntryIx) (w : Option WrappingKey) (s : State) : (putEntry e w s).random = s.random := rfl
@[simp] theorem putEntry_contexts (e : EntryIx) (w : Option WrappingKey) (s : State) : (putEntry e w s).contexts = s.contexts := rfl
@[simp] theorem putEntry_lanes (e : EntryIx) (w : Option WrappingKey) (s : State) : (putEntry e w s).lanes = s.lanes := rfl
@[simp] theorem putEntry_laneTurn (e : EntryIx) (w : Option WrappingKey) (s : State) : (putEntry e w s).laneTurn = s.laneTurn := rfl
@[simp] theorem putEntry_moqHold (e : EntryIx) (w : Option WrappingKey) (s : State) : (putEntry e w s).moqHold = s.moqHold := rfl
@[simp] theorem putEntry_fsqHold (e : EntryIx) (w : Option WrappingKey) (s : State) : (putEntry e w s).fsqHold = s.fsqHold := rfl
@[simp] theorem putEntry_du (e : EntryIx) (w : Option WrappingKey) (s : State) : (putEntry e w s).du = s.du := rfl
@[simp] theorem putEntry_limits (e : EntryIx) (w : Option WrappingKey) (s : State) : (putEntry e w s).limits = s.limits := rfl
@[simp] theorem putEntry_events (e : EntryIx) (w : Option WrappingKey) (s : State) : (putEntry e w s).events = s.events := rfl
@[simp] theorem putEntry_pending (e : EntryIx) (w : Option WrappingKey) (s : State) : (putEntry e w s).pending = s.pending := rfl

/-! ### putLane -/

@[simp] theorem putLane_inReset (l : LaneIx) (x : Lane) (s : State) : (putLane l x s).inReset = s.inReset := rfl
@[simp] theorem putLane_time (l : LaneIx) (x : Lane) (s : State) : (putLane l x s).time = s.time := rfl
@[simp] theorem putLane_front (l : LaneIx) (x : Lane) (s : State) : (putLane l x s).front = s.front := rfl
@[simp] theorem putLane_media (l : LaneIx) (x : Lane) (s : State) : (putLane l x s).media = s.media := rfl
@[simp] theorem putLane_autoLock (l : LaneIx) (x : Lane) (s : State) : (putLane l x s).autoLock = s.autoLock := rfl
@[simp] theorem putLane_frontTurn (l : LaneIx) (x : Lane) (s : State) : (putLane l x s).frontTurn = s.frontTurn := rfl
@[simp] theorem putLane_fiq (l : LaneIx) (x : Lane) (s : State) : (putLane l x s).fiq = s.fiq := rfl
@[simp] theorem putLane_miq (l : LaneIx) (x : Lane) (s : State) : (putLane l x s).miq = s.miq := rfl
@[simp] theorem putLane_drq (l : LaneIx) (x : Lane) (s : State) : (putLane l x s).drq = s.drq := rfl
@[simp] theorem putLane_moq (l : LaneIx) (x : Lane) (s : State) : (putLane l x s).moq = s.moq := rfl
@[simp] theorem putLane_fsq (l : LaneIx) (x : Lane) (s : State) : (putLane l x s).fsq = s.fsq := rfl
@[simp] theorem putLane_rpq (l : LaneIx) (x : Lane) (s : State) : (putLane l x s).rpq = s.rpq := rfl
@[simp] theorem putLane_verdict (l : LaneIx) (x : Lane) (s : State) : (putLane l x s).verdict = s.verdict := rfl
@[simp] theorem putLane_ranges (l : LaneIx) (x : Lane) (s : State) : (putLane l x s).ranges = s.ranges := rfl
@[simp] theorem putLane_slots (l : LaneIx) (x : Lane) (s : State) : (putLane l x s).slots = s.slots := rfl
@[simp] theorem putLane_wrapping (l : LaneIx) (x : Lane) (s : State) : (putLane l x s).wrapping = s.wrapping := rfl
@[simp] theorem putLane_random (l : LaneIx) (x : Lane) (s : State) : (putLane l x s).random = s.random := rfl
@[simp] theorem putLane_contexts (l : LaneIx) (x : Lane) (s : State) : (putLane l x s).contexts = s.contexts := rfl
@[simp] theorem putLane_lanes (l : LaneIx) (x : Lane) (s : State) : (putLane l x s).lanes = s.lanes.set l x := rfl
@[simp] theorem putLane_laneTurn (l : LaneIx) (x : Lane) (s : State) : (putLane l x s).laneTurn = s.laneTurn := rfl
@[simp] theorem putLane_moqHold (l : LaneIx) (x : Lane) (s : State) : (putLane l x s).moqHold = s.moqHold := rfl
@[simp] theorem putLane_fsqHold (l : LaneIx) (x : Lane) (s : State) : (putLane l x s).fsqHold = s.fsqHold := rfl
@[simp] theorem putLane_du (l : LaneIx) (x : Lane) (s : State) : (putLane l x s).du = s.du := rfl
@[simp] theorem putLane_limits (l : LaneIx) (x : Lane) (s : State) : (putLane l x s).limits = s.limits := rfl
@[simp] theorem putLane_events (l : LaneIx) (x : Lane) (s : State) : (putLane l x s).events = s.events := rfl
@[simp] theorem putLane_pending (l : LaneIx) (x : Lane) (s : State) : (putLane l x s).pending = s.pending := rfl

/-! ### raise -/

@[simp] theorem raise_inReset (f : Fin 15) (s : State) : (raise f s).inReset = s.inReset := rfl
@[simp] theorem raise_time (f : Fin 15) (s : State) : (raise f s).time = s.time := rfl
@[simp] theorem raise_front (f : Fin 15) (s : State) : (raise f s).front = s.front := rfl
@[simp] theorem raise_media (f : Fin 15) (s : State) : (raise f s).media = s.media := rfl
@[simp] theorem raise_autoLock (f : Fin 15) (s : State) : (raise f s).autoLock = s.autoLock := rfl
@[simp] theorem raise_frontTurn (f : Fin 15) (s : State) : (raise f s).frontTurn = s.frontTurn := rfl
@[simp] theorem raise_fiq (f : Fin 15) (s : State) : (raise f s).fiq = s.fiq := rfl
@[simp] theorem raise_miq (f : Fin 15) (s : State) : (raise f s).miq = s.miq := rfl
@[simp] theorem raise_drq (f : Fin 15) (s : State) : (raise f s).drq = s.drq := rfl
@[simp] theorem raise_moq (f : Fin 15) (s : State) : (raise f s).moq = s.moq := rfl
@[simp] theorem raise_fsq (f : Fin 15) (s : State) : (raise f s).fsq = s.fsq := rfl
@[simp] theorem raise_rpq (f : Fin 15) (s : State) : (raise f s).rpq = s.rpq := rfl
@[simp] theorem raise_verdict (f : Fin 15) (s : State) : (raise f s).verdict = s.verdict := rfl
@[simp] theorem raise_ranges (f : Fin 15) (s : State) : (raise f s).ranges = s.ranges := rfl
@[simp] theorem raise_slots (f : Fin 15) (s : State) : (raise f s).slots = s.slots := rfl
@[simp] theorem raise_wrapping (f : Fin 15) (s : State) : (raise f s).wrapping = s.wrapping := rfl
@[simp] theorem raise_random (f : Fin 15) (s : State) : (raise f s).random = s.random := rfl
@[simp] theorem raise_contexts (f : Fin 15) (s : State) : (raise f s).contexts = s.contexts := rfl
@[simp] theorem raise_lanes (f : Fin 15) (s : State) : (raise f s).lanes = s.lanes := rfl
@[simp] theorem raise_laneTurn (f : Fin 15) (s : State) : (raise f s).laneTurn = s.laneTurn := rfl
@[simp] theorem raise_moqHold (f : Fin 15) (s : State) : (raise f s).moqHold = s.moqHold := rfl
@[simp] theorem raise_fsqHold (f : Fin 15) (s : State) : (raise f s).fsqHold = s.fsqHold := rfl
@[simp] theorem raise_du (f : Fin 15) (s : State) : (raise f s).du = s.du := rfl
@[simp] theorem raise_limits (f : Fin 15) (s : State) : (raise f s).limits = s.limits := rfl
@[simp] theorem raise_events (f : Fin 15) (s : State) : (raise f s).events = s.events.raise f := rfl
@[simp] theorem raise_pending (f : Fin 15) (s : State) : (raise f s).pending = s.pending := rfl

/-! ### putPort -/

@[simp] theorem putPort_inReset (p : PortId) (x : Port) (s : State) : (putPort p x s).inReset = s.inReset := by cases p <;> rfl
@[simp] theorem putPort_time (p : PortId) (x : Port) (s : State) : (putPort p x s).time = s.time := by cases p <;> rfl
@[simp] theorem putPort_autoLock (p : PortId) (x : Port) (s : State) : (putPort p x s).autoLock = s.autoLock := by cases p <;> rfl
@[simp] theorem putPort_frontTurn (p : PortId) (x : Port) (s : State) : (putPort p x s).frontTurn = s.frontTurn := by cases p <;> rfl
@[simp] theorem putPort_fiq (p : PortId) (x : Port) (s : State) : (putPort p x s).fiq = s.fiq := by cases p <;> rfl
@[simp] theorem putPort_miq (p : PortId) (x : Port) (s : State) : (putPort p x s).miq = s.miq := by cases p <;> rfl
@[simp] theorem putPort_drq (p : PortId) (x : Port) (s : State) : (putPort p x s).drq = s.drq := by cases p <;> rfl
@[simp] theorem putPort_moq (p : PortId) (x : Port) (s : State) : (putPort p x s).moq = s.moq := by cases p <;> rfl
@[simp] theorem putPort_fsq (p : PortId) (x : Port) (s : State) : (putPort p x s).fsq = s.fsq := by cases p <;> rfl
@[simp] theorem putPort_rpq (p : PortId) (x : Port) (s : State) : (putPort p x s).rpq = s.rpq := by cases p <;> rfl
@[simp] theorem putPort_verdict (p : PortId) (x : Port) (s : State) : (putPort p x s).verdict = s.verdict := by cases p <;> rfl
@[simp] theorem putPort_ranges (p : PortId) (x : Port) (s : State) : (putPort p x s).ranges = s.ranges := by cases p <;> rfl
@[simp] theorem putPort_slots (p : PortId) (x : Port) (s : State) : (putPort p x s).slots = s.slots := by cases p <;> rfl
@[simp] theorem putPort_wrapping (p : PortId) (x : Port) (s : State) : (putPort p x s).wrapping = s.wrapping := by cases p <;> rfl
@[simp] theorem putPort_random (p : PortId) (x : Port) (s : State) : (putPort p x s).random = s.random := by cases p <;> rfl
@[simp] theorem putPort_contexts (p : PortId) (x : Port) (s : State) : (putPort p x s).contexts = s.contexts := by cases p <;> rfl
@[simp] theorem putPort_lanes (p : PortId) (x : Port) (s : State) : (putPort p x s).lanes = s.lanes := by cases p <;> rfl
@[simp] theorem putPort_laneTurn (p : PortId) (x : Port) (s : State) : (putPort p x s).laneTurn = s.laneTurn := by cases p <;> rfl
@[simp] theorem putPort_moqHold (p : PortId) (x : Port) (s : State) : (putPort p x s).moqHold = s.moqHold := by cases p <;> rfl
@[simp] theorem putPort_fsqHold (p : PortId) (x : Port) (s : State) : (putPort p x s).fsqHold = s.fsqHold := by cases p <;> rfl
@[simp] theorem putPort_du (p : PortId) (x : Port) (s : State) : (putPort p x s).du = s.du := by cases p <;> rfl
@[simp] theorem putPort_limits (p : PortId) (x : Port) (s : State) : (putPort p x s).limits = s.limits := by cases p <;> rfl
@[simp] theorem putPort_events (p : PortId) (x : Port) (s : State) : (putPort p x s).events = s.events := by cases p <;> rfl
@[simp] theorem putPort_pending (p : PortId) (x : Port) (s : State) : (putPort p x s).pending = s.pending := by cases p <;> rfl

@[simp] theorem putPort_port_self (p : PortId) (x : Port) (s : State) : (putPort p x s).port p = x := by cases p <;> rfl

@[simp] theorem putPort_front (x : Port) (s : State) : putPort .front x s = { s with front := x } := rfl

@[simp] theorem putPort_media (x : Port) (s : State) : putPort .media x s = { s with media := x } := rfl

@[simp] theorem port_front (s : State) : s.port .front = s.front := rfl

@[simp] theorem port_media (s : State) : s.port .media = s.media := rfl

@[simp] theorem intake_front (s : State) : s.intake .front = s.fiq := rfl

@[simp] theorem intake_media (s : State) : s.intake .media = s.miq := rfl

/-- The other port is not touched. -/
theorem putPort_port_ne {p q : PortId} (x : Port) (s : State) (h : p ≠ q) : (putPort p x s).port q = s.port q := by
  cases p <;> cases q <;> first | rfl | exact absurd rfl h

end Sys2Proof.Machine
end

