-- ==== Sys2Proof/Laws/Contexts.lean ====
section
/-! SUPPORT. What the shared operations on contexts do: leaving a drain set, entering REPORTING or FREE, the ending of a
transfer that nothing encumbers, and the entry of a lane output. -/

namespace Sys2Proof.Machine

/-- A fold whose every turn changes nothing changes nothing. -/
theorem foldl_unchanged {α β : Type} (f : α → β → α) (l : List β) (a : α) (h : ∀ b ∈ l, f a b = a) : l.foldl f a = a := by
  induction l with
  | nil => rfl
  | cons b bs ih =>
    simp only [List.foldl_cons, h b (by simp)]
    exact ih (fun c hc => h c (by simp [hc]))

/-- A context that is in no drain set leaves none (R56). -/
theorem leaveDrain_none {t : Tag} {s : State} (h : InNoDrain t s) : leaveDrain t s = s := by
  unfold leaveDrain
  split
  · rename_i k goal timer silent hdu
    have hk : t ∉ s.slots[k].drainSet := h k
    dsimp only
    rw [if_neg (by simpa only [List.contains_eq_mem, decide_eq_true_eq] using hk)]
  · rfl

/-- A context in no drain set enters REPORTING: its record and its COMPLETION, and nothing else (R81). -/
theorem enterReporting_none {t : Tag} {s : State} (h : InNoDrain t s) :
    enterReporting t s =
      { s with
        contexts := s.contexts.set t { s.contexts[t] with state := .reporting, deadline := none },
        rpq := s.rpq ++ [completionFrame t { s.contexts[t] with state := .reporting, deadline := none }] } := by
  unfold enterReporting
  rw [leaveDrain_none]
  · rfl
  · exact h

/-- A context in no drain set becomes FREE: its record, and nothing else (R80, R84). -/
theorem freeContext_none {t : Tag} {s : State} (h : InNoDrain t s) :
    freeContext t s = { s with contexts := s.contexts.set t Context.free } := by
  unfold freeContext
  rw [leaveDrain_none]
  · rfl
  · exact h

/-- An answer touches no lane, slot or context: a change to them may as well come after it (R91, R138). -/
theorem answer_with (r : Result) (data : Bytes) (s : State) (ls : Vector Lane 4) (sl : Vector SlotRecord 16)
    (cs : Vector Context 64) (mh fh : List LaneIx) :
    answer r data { s with lanes := ls, slots := sl, contexts := cs, moqHold := mh, fsqHold := fh } =
      { answer r data s with lanes := ls, slots := sl, contexts := cs, moqHold := mh, fsqHold := fh } := by
  unfold answer silentUnit
  cases firstUnexecuted s.drq with
  | none => rfl
  | some e =>
    dsimp only
    split_ifs <;> rfl

/-- An answer leaves the lanes, the slots, the contexts and the hold lists. -/
@[simp] theorem answer_lanes (r : Result) (data : Bytes) (s : State) : (answer r data s).lanes = s.lanes :=
  (congrArg State.lanes (answer_with r data s s.lanes s.slots s.contexts s.moqHold s.fsqHold) :)
@[simp] theorem answer_slots (r : Result) (data : Bytes) (s : State) : (answer r data s).slots = s.slots :=
  (congrArg State.slots (answer_with r data s s.lanes s.slots s.contexts s.moqHold s.fsqHold) :)
@[simp] theorem answer_contexts (r : Result) (data : Bytes) (s : State) : (answer r data s).contexts = s.contexts :=
  (congrArg State.contexts (answer_with r data s s.lanes s.slots s.contexts s.moqHold s.fsqHold) :)
@[simp] theorem answer_moqHold (r : Result) (data : Bytes) (s : State) : (answer r data s).moqHold = s.moqHold :=
  (congrArg State.moqHold (answer_with r data s s.lanes s.slots s.contexts s.moqHold s.fsqHold) :)
@[simp] theorem answer_fsqHold (r : Result) (data : Bytes) (s : State) : (answer r data s).fsqHold = s.fsqHold :=
  (congrArg State.fsqHold (answer_with r data s s.lanes s.slots s.contexts s.moqHold s.fsqHold) :)

/-- Leaving a drain set touches no context (R56). -/
@[simp] theorem leaveDrain_contexts (t : Tag) (s : State) : (leaveDrain t s).contexts = s.contexts := by
  unfold leaveDrain
  split
  · dsimp only
    split_ifs
    · unfold completeDrain
      split
      · simp [emptySlot, putSlot]
      · split_ifs <;> simp [emptySlot, fillingSlot, putSlot]
    · rfl
    · rfl
  · rfl

/-- A count has risen: the context ends DONE, leaves ENDING or stays (R72, R75, R80). -/
theorem leaveEnding_finishTransfer {t : Tag} {s : State} : leaveEnding t (finishTransfer t s) = s.closed t := by
  unfold finishTransfer State.closed
  dsimp only
  by_cases hf : s.contexts[t].state = .flushing ∧ s.contexts[t].finished = s.contexts[t].count
  · rw [if_pos hf, if_pos hf]
    unfold leaveEnding enterReporting
    rw [if_neg (by simp [-Fin.getElem_fin, putContext])]
    simp [-Fin.getElem_fin, putContext]
  · rw [if_neg hf, if_neg hf]
    unfold leaveEnding
    by_cases he : s.contexts[t].state = .ending ∧ s.contexts[t].jobs = 0
    · rw [if_pos he, if_pos he]
      split_ifs <;> rfl
    · rw [if_neg he, if_neg he]

/-- A count of jobs has fallen: a context that is not FLUSHING leaves ENDING or stays (R80). -/
theorem leaveEnding_closed {t : Tag} {s : State} (he : s.contexts[t].state ≠ .flushing) :
    leaveEnding t s = s.closed t := by
  rw [← leaveEnding_finishTransfer]
  unfold finishTransfer
  rw [if_neg (by tauto)]

/-- With no READ output of the context held, none is discarded (R79). -/
theorem discardHeldReads_none {t : Tag} {s : State} (h : ∀ l : LaneIx, heldRead s.lanes[l] ≠ some t) :
    discardHeldReads t s = s := by
  unfold discardHeldReads
  apply foldl_unchanged
  intro l _
  unfold discardHeldRead
  have hl := h l
  split
  · rename_i j f hx
    rw [hx] at hl
    have hj : ¬ j.tag = t := by simpa [heldRead] using hl
    simp [hj]
  · rfl

/-- With no frame of the context at the front head, none is discarded (R79). -/
theorem discardFrontHead_none {t : Tag} {s : State} (h : ∀ q ∈ s.fiq.head?, frameTag q.frame ≠ t) :
    discardFrontHead t s = s := by
  unfold discardFrontHead
  rw [if_neg]
  cases hq : s.fiq with
  | nil => simp [headIsOf]
  | cons q qs =>
    have := h q (by simp [hq])
    simp [headIsOf, this]

/-- With no frame of the context at the media head, none is discarded (R79). -/
theorem discardMediaHead_none {t : Tag} {s : State} (h : ∀ q ∈ s.miq.head?, frameTag q.frame ≠ t) :
    discardMediaHead t s = s := by
  unfold discardMediaHead
  rw [if_neg]
  cases hq : s.miq with
  | nil => simp [headIsOf]
  | cons q qs =>
    have := h q (by simp [hq])
    simp [headIsOf, this]

/-- The ending of a transfer that nothing encumbers: its record and perhaps its COMPLETION (R78 to R81). -/
theorem endTransfer_unencumbered {t : Tag} {e : Ending} {fail : Option Nat} {s : State}
    (hrun : s.contexts[t].state.running = true) (h : Unencumbered t s) :
    endTransfer t e fail s = s.ended t e fail := by
  obtain ⟨hsup, hheld, hf, hm, hd⟩ := h
  unfold endTransfer enterEnding
  rw [if_pos hrun]
  simp only
  rw [discardFrontHead_none (by simpa [-Fin.getElem_fin] using hf), discardMediaHead_none (by simpa [-Fin.getElem_fin] using hm),
    discardHeldReads_none (by simpa [-Fin.getElem_fin] using hheld)]
  unfold leaveEnding
  simp only [putContext_contexts, set_get_self, true_and]
  unfold State.ended Context.endedBy
  split
  · rename_i hj
    rw [if_neg (by simp [-Fin.getElem_fin, hsup]), enterReporting_none (by exact hd)]
    simp [-Fin.getElem_fin, hj]
  · rename_i hj
    simp [-Fin.getElem_fin, putContext]

/-- Two slots are written; what the first writes may come last when the second writes pins only. -/
theorem slots_released {k j : SlotIx} {v : Vector SlotRecord 16} (f : SlotRecord → SlotRecord)
    (h : ∀ r : SlotRecord, (f r).pins = r.pins ∧ ∀ n, f { r with pins := n } = { f r with pins := n }) :
    (v.set k (f v[k])).set j { (v.set k (f v[k]))[j] with pins := (v.set k (f v[k]))[j].pins - 1 } =
      (v.set j { v[j] with pins := v[j].pins - 1 }).set k (f (v.set j { v[j] with pins := v[j].pins - 1 })[k]) := by
  by_cases hk : k = j
  · subst hk
    have e (x : SlotRecord) (w : Vector SlotRecord 16) (y : SlotRecord) : (w.set k x).set k y = w.set k y := by simp
    rw [set_get_self, set_get_self, e, e, (h v[k]).1]
    congr 1
    exact ((h v[k]).2 _).symm
  · have hk' : k.val ≠ j.val := fun e => hk (Fin.ext e)
    have e1 : (v.set k (f v[k]))[j] = v[j] := set_get_ne v _ hk
    have e2 : (v.set j { v[j] with pins := v[j].pins - 1 })[k] = v[k] :=
      set_get_ne v _ (fun e => hk e.symm)
    rw [e1, e2, Vector.set_comm _ _ hk']

/-- The release of a lane and the completion of a drain may change places. -/
theorem released_completeDrain (k : SlotIx) (goal : DrainGoal) (l : LaneIx) (j : Job) (s : State) :
    (completeDrain k goal s).released l j = completeDrain k goal (s.released l j) := by
  have e1 := slots_released (k := k) (j := j.slot) (v := s.slots)
    (fun r => { r with state := .empty, dataKey := 0, tweakKey := 0, drainSet := [] }) (fun r => ⟨rfl, fun n => rfl⟩)
  have e2 := slots_released (k := k) (j := j.slot) (v := s.slots)
    (fun r => { r with state := .filling, dataKey := 0, tweakKey := 0, drainSet := [] }) (fun r => ⟨rfl, fun n => rfl⟩)
  have ha (r : Result) : (answer r [] (emptySlot k s)).released l j = answer r [] (emptySlot k (s.released l j)) := by
    have := answer_with r [] (emptySlot k s) ((answer r [] (emptySlot k s)).released l j).lanes
      ((answer r [] (emptySlot k s)).released l j).slots ((answer r [] (emptySlot k s)).released l j).contexts
      ((answer r [] (emptySlot k s)).released l j).moqHold ((answer r [] (emptySlot k s)).released l j).fsqHold
    refine Eq.trans ?_ (this.symm.trans ?_)
    · rfl
    · congr 1
      simp only [State.released, answer_slots, answer_lanes, answer_contexts, answer_moqHold, answer_fsqHold, emptySlot,
        putSlot]
      congr 1
  unfold completeDrain
  cases goal with
  | discard => exact ha .ok
  | rekey n g =>
    have hr : (s.released l j).random = s.random := rfl
    dsimp only
    rw [hr]
    split_ifs
    · exact ha .randomFailed
    · simp only [State.released, fillingSlot, putSlot, silentUnit]
      congr 1

/-- The release of a lane and the leaving of a drain set may change places. -/
theorem released_leaveDrain (t : Tag) (l : LaneIx) (j : Job) (s : State) :
    (leaveDrain t s).released l j = leaveDrain t (s.released l j) := by
  have hs : (s.released l j).du = s.du := rfl
  unfold leaveDrain
  rw [hs]
  split
  · rename_i k goal timer silent hdu
    have hd : (s.released l j).slots[k].drainSet = s.slots[k].drainSet := by
      by_cases hk : j.slot = k
      · subst hk
        simp [-Fin.getElem_fin, State.released]
      · simp only [State.released]
        rw [set_get_ne _ _ hk]
    have e := slots_released (k := k) (j := j.slot) (v := s.slots)
      (fun r => { r with drainSet := s.slots[k].drainSet.filter (· != t) }) (fun r => ⟨rfl, fun n => rfl⟩)
    dsimp only
    rw [hd]
    split_ifs
    · rw [released_completeDrain]
      congr 1
      simp only [State.released, putSlot]
      congr 1
    · simp only [State.released, putSlot]
      congr 1
    · rfl
  · rfl

/-- A lane job is over (R108, R109). -/
theorem releaseLane_eq (l : LaneIx) (j : Job) (s : State) : releaseLane l j s = s.released l j := rfl

/-! ### The ending of a transfer with all that it clears away -/

/-- Leaving ENDING leaves the lanes. -/
@[simp] theorem leaveDrain_lanes (t : Tag) (s : State) : (leaveDrain t s).lanes = s.lanes := by
  unfold leaveDrain
  split
  · dsimp only
    split_ifs
    · unfold completeDrain
      split
      · simp [emptySlot, putSlot]
      · split_ifs <;> simp [emptySlot, fillingSlot, putSlot]
    · rfl
    · rfl
  · rfl

/-- Leaving ENDING, in the words of `leaveDrain` (R80, R81). -/
theorem leaveEnding_eq (t : Tag) (s : State) :
    leaveEnding t s =
      if s.contexts[t].state = .ending ∧ s.contexts[t].jobs = 0 then
        leaveDrain t
          (if s.contexts[t].suppressed then { s with contexts := s.contexts.set t Context.free }
          else
            { s with
              contexts := s.contexts.set t { s.contexts[t] with state := .reporting, deadline := none },
              rpq := s.rpq ++ [completionFrame t { s.contexts[t] with state := .reporting, deadline := none }] })
      else s := by
  unfold leaveEnding
  split_ifs <;> rfl

/-- Leaving ENDING leaves the lanes. -/
@[simp] theorem leaveEnding_lanes (t : Tag) (s : State) : (leaveEnding t s).lanes = s.lanes := by
  rw [leaveEnding_eq]
  split_ifs <;> simp

/-- A context that has left ENDING leaves it no more. -/
theorem leaveEnding_twice (t : Tag) (s : State) : leaveEnding t (leaveEnding t s) = leaveEnding t s := by
  by_cases h : s.contexts[t].state = .ending ∧ s.contexts[t].jobs = 0
  · rw [leaveEnding_eq t (leaveEnding t s), if_neg]
    rw [leaveEnding_eq, if_pos h]
    split_ifs <;> simp [-Fin.getElem_fin, Context.free]
  · have : leaveEnding t s = s := by rw [leaveEnding_eq, if_neg h]
    rw [this, this]

/-- A lane of the context is released before or after the context leaves ENDING: the end is the same. -/
theorem leaveEnding_released (l : LaneIx) (j : Job) (s : State) :
    leaveEnding j.tag ((leaveEnding j.tag s).released l j) = leaveEnding j.tag (s.released l j) := by
  by_cases h : s.contexts[j.tag].state = .ending ∧ s.contexts[j.tag].jobs = 0
  · have hr : (s.released l j).contexts[j.tag] = s.contexts[j.tag] := by
      have := h.2
      simp only [State.released, set_get_self]
      rw [this]
      conv_rhs => rw [← Eq.refl s.contexts[j.tag]]
      cases hc : s.contexts[j.tag]
      simp_all
    rw [leaveEnding_eq j.tag s, if_pos h, released_leaveDrain, leaveEnding_eq j.tag (s.released l j), hr, if_pos h,
      leaveEnding_eq, if_neg]
    · congr 1
      split_ifs
      · simp [-Fin.getElem_fin, State.released, Context.free]
      · simp [-Fin.getElem_fin, State.released, h.2]
    · split_ifs <;> simp [-Fin.getElem_fin, State.released, Context.free]
  · rw [leaveEnding_eq j.tag s, if_neg h]

/-- What `State.unread` does with one lane. -/
def unreadLane (t : Tag) (x : State) (l : LaneIx) : State :=
  match x.lanes[l] with
  | .holding j _ .fsq => if j.tag = t then x.released l j else x
  | _ => x

/-- A lane is discarded as it is released, but that the context may leave ENDING at once (R79, R109). -/
theorem discardHeldRead_leaveEnding (t : Tag) (l : LaneIx) (s : State) :
    leaveEnding t (discardHeldRead t l s) = leaveEnding t (unreadLane t s l) ∧
      leaveEnding t (discardHeldRead t l (leaveEnding t s)) = leaveEnding t (unreadLane t s l) := by
  unfold discardHeldRead unreadLane
  rw [leaveEnding_lanes]
  rcases hl : s.lanes[l] with _ | _ | ⟨j, f, _ | _⟩
  · exact ⟨rfl, leaveEnding_twice _ _⟩
  · exact ⟨rfl, leaveEnding_twice _ _⟩
  · exact ⟨rfl, leaveEnding_twice _ _⟩
  · by_cases hj : j.tag = t
    · subst hj
      simp only [if_true, discardOutput, releaseLane_eq]
      exact ⟨leaveEnding_twice _ _, by rw [leaveEnding_twice, leaveEnding_released]⟩
    · simp only [hj, if_false]
      exact ⟨trivial, leaveEnding_twice _ _⟩

/-- The lanes that hold READ outputs of a context are discarded as they are released, but for when the context leaves
ENDING (R79, R80). -/
theorem discardHeldReads_leaveEnding (t : Tag) (s : State) :
    leaveEnding t (discardHeldReads t s) = leaveEnding t (s.unread t) := by
  have step (l : LaneIx) (x y : State) (h : leaveEnding t x = leaveEnding t y) :
      leaveEnding t (discardHeldRead t l x) = leaveEnding t (unreadLane t y l) := by
    rw [(discardHeldRead_leaveEnding t l x).1, ← (discardHeldRead_leaveEnding t l x).2, h,
      (discardHeldRead_leaveEnding t l y).2]
  have all (ls : List LaneIx) : ∀ x y : State, leaveEnding t x = leaveEnding t y →
      leaveEnding t (ls.foldl (fun s l => discardHeldRead t l s) x) = leaveEnding t (ls.foldl (unreadLane t) y) := by
    induction ls with
    | nil => exact fun x y h => h
    | cons l ls ih => exact fun x y h => ih _ _ (step l x y h)
  exact all allLanes s s rfl

/-- Releasing lanes leaves the state of the context. -/
theorem unread_state (t : Tag) (s : State) : (s.unread t).contexts[t].state = s.contexts[t].state := by
  have one (l : LaneIx) (x : State) : (unreadLane t x l).contexts[t].state = x.contexts[t].state := by
    unfold unreadLane
    rcases x.lanes[l] with _ | _ | ⟨j, f, _ | _⟩ <;> try rfl
    dsimp only
    split_ifs with hj
    · subst hj
      simp [-Fin.getElem_fin, State.released]
    · rfl
  have all (ls : List LaneIx) : ∀ x : State, (ls.foldl (unreadLane t) x).contexts[t].state = x.contexts[t].state := by
    induction ls with
    | nil => exact fun x => rfl
    | cons l ls ih => exact fun x => (ih _).trans (one l x)
  exact all allLanes s

/-- A head frame leaves its queue (R86, R93, R127). -/
theorem popIntake_eq (p : PortId) (s : State) : popIntake p s = s.beheaded p := by cases p <;> rfl

/-- The sector of a tag at the front head is discarded (R71, R79). -/
theorem discardFrontHead_eq (t : Tag) (s : State) :
    discardFrontHead t s =
      if ∃ q ∈ s.fiq.head?, q.frame.header.kind.toNat = 2 ∧ frameTag q.frame = t then s.beheaded .front else s := by
  have hk (q : Queued) : q.frame.header.kind = Kind.sector ↔ q.frame.header.kind.toNat = 2 :=
    byte_eq_iff _ 2 (by omega)
  unfold discardFrontHead
  cases hq : s.fiq with
  | nil => simp [headIsOf]
  | cons q qs => simp [headIsOf, popIntake_eq, hk, and_comm]

/-- The judged frame of a tag at the media head is discarded (R74, R79). -/
theorem discardMediaHead_eq (t : Tag) (s : State) :
    discardMediaHead t s =
      if s.verdict.isSome = true ∧ ∃ q ∈ s.miq.head?, frameTag q.frame = t then s.beheaded .media else s := by
  unfold discardMediaHead
  cases hq : s.miq with
  | nil => simp [headIsOf]
  | cons q qs => simp [headIsOf, popIntake_eq]

/-- The ending of a transfer that is ACTIVE or FLUSHING, with all that it clears away (R78 to R81). -/
theorem endTransfer_cleared {t : Tag} {e : Ending} {fail : Option Nat} {s : State}
    (hrun : s.contexts[t].state.running = true) : endTransfer t e fail s = s.cleared t e fail := by
  unfold endTransfer enterEnding State.cleared
  rw [if_pos hrun, discardHeldReads_leaveEnding]
  dsimp only
  rw [leaveEnding_closed (by
    rw [unread_state]
    unfold discardMediaHead discardFrontHead
    split_ifs <;> simp [-Fin.getElem_fin, popIntake, putIntake, testMarks, putPort, putContext])]
  congr 2
  rw [discardMediaHead_eq, discardFrontHead_eq]
  have h (p : Prop) [Decidable p] (x : State) : (if p then x.beheaded .front else x).verdict = x.verdict ∧
      (if p then x.beheaded .front else x).miq = x.miq := by
    split_ifs <;> exact ⟨rfl, rfl⟩
  simp only [(h _ _).1, (h _ _).2]
  rfl

/-- A cause of Table 4-5 does not reach a context that is neither ACTIVE nor FLUSHING (R78). -/
theorem endTransfer_elsewhere {t : Tag} {e : Ending} {fail : Option Nat} {s : State}
    (hrun : s.contexts[t].state.running = false) : endTransfer t e fail s = s := by
  unfold endTransfer
  simp [-Fin.getElem_fin, hrun]

/-- A delivery, in every status (R75, R136). -/
theorem deliver_eq (t : Tag) (r : ReadStatus) (f : Frame) (s : State) : deliver t r f s = s.delivered t r f := by
  unfold deliver State.delivered deliveryFlags raiseIf
  cases r <;> simp [-Fin.getElem_fin, putContext, ReadCounts.raise] <;> rfl

/-- A write output enters the MOQ (R72, R124). -/
theorem emit_eq (t : Tag) (f : Frame) (s : State) : emit t f s = s.emitted t f := rfl

/-- The taking of a sector by the record of its context (R71, R74). -/
theorem took_eq (t : Tag) (index jobs : Nat) (s : State) :
    putContext t (s.contexts[t].take (idleDeadline s) index jobs) s = s.took t index jobs := by
  unfold State.took Context.take putContext idleDeadline timeAfter
  dsimp only
  congr 1
  congr 1
  cases hd : s.contexts[t].direction <;> by_cases h : s.contexts[t].taken + 1 = s.contexts[t].count <;>
    simp [-Fin.getElem_fin, h]

end Sys2Proof.Machine
end

