-- ==== Sys2Proof/Laws/Directives.lean ====
section
/-! SUPPORT. What the shared operations of the directives do: the Directive Queue split at its first unexecuted entry, the
answering of a directive, its beginning, and the reading of its parameters. -/

namespace Sys2Proof.Machine

/-! ### The Directive Queue at its first unexecuted entry -/

theorem firstUnexecuted_split {done rest : List DrqEntry} {e : DrqEntry} (hd : ∀ d ∈ done, d.executed = true)
    (he : e.executed = false) : firstUnexecuted (done ++ e :: rest) = some e := by
  induction done with
  | nil => simp [firstUnexecuted, he]
  | cons d ds ih =>
    have hd' := hd d (by simp)
    have := ih (fun x hx => hd x (by simp [hx]))
    simp only [firstUnexecuted] at this ⊢
    simp [hd', this]

theorem markExecuted_split {done rest : List DrqEntry} {e : DrqEntry} (hd : ∀ d ∈ done, d.executed = true)
    (he : e.executed = false) :
    markExecuted (done ++ e :: rest) = done ++ { e with executed := true } :: rest := by
  induction done with
  | nil => simp [markExecuted, he]
  | cons d ds ih =>
    have hd' := hd d (by simp)
    simp [markExecuted, hd', ih (fun x hx => hd x (by simp [hx]))]

theorem dropUnexecuted_split {done rest : List DrqEntry} {e : DrqEntry} (hd : ∀ d ∈ done, d.executed = true)
    (he : e.executed = false) : dropUnexecuted (done ++ e :: rest) = done ++ rest := by
  induction done with
  | nil => simp [dropUnexecuted, he]
  | cons d ds ih =>
    have hd' := hd d (by simp)
    simp [dropUnexecuted, hd', ih (fun x hx => hd x (by simp [hx]))]

/-- An entry not yet executed splits the queue: executed entries before it, whatever after it. -/
theorem split_of_firstUnexecuted {q : List DrqEntry} {e : DrqEntry} (h : firstUnexecuted q = some e) :
    ∃ done rest, q = done ++ e :: rest ∧ (∀ d ∈ done, d.executed = true) ∧ e.executed = false := by
  induction q with
  | nil => simp [firstUnexecuted] at h
  | cons d ds ih =>
    by_cases hd : d.executed = true
    · have h' : firstUnexecuted ds = some e := by
        simpa [firstUnexecuted, hd] using h
      obtain ⟨done, rest, rfl, hx, he⟩ := ih h'
      exact ⟨d :: done, rest, rfl, by simpa [hd] using hx, he⟩
    · have hd' : d.executed = false := by simpa using hd
      have : d = e := by simpa [firstUnexecuted, hd'] using h
      subst this
      exact ⟨[], ds, rfl, by simp, hd'⟩

/-! ### Answering -/

/-- A directive whose response is not to be discarded is answered: its entry is executed, its RESPONSE stands last in the
Report Queue and the unit is IDLE (R91, R138, R139). -/
theorem answer_next {r : Result} {data : Bytes} {done : List DrqEntry} {e : DrqEntry} {rest : List DrqEntry} {s : State}
    (h : Next done e rest s) (hs : silentUnit s = false) : answer r data s = s.answered r data done e rest := by
  obtain ⟨hq, hd, he⟩ := h
  simp [answer, hq, firstUnexecuted_split hd he, markExecuted_split hd he, hs, State.answered]

/-- A directive whose response is to be discarded ends without one, and its entry is freed (R98, R138). -/
theorem answer_silent {r : Result} {data : Bytes} {done : List DrqEntry} {e : DrqEntry} {rest : List DrqEntry} {s : State}
    (h : Next done e rest s) (hs : silentUnit s = true) :
    answer r data s = { s with du := none, drq := done ++ rest } := by
  obtain ⟨hq, hd, he⟩ := h
  simp [answer, hq, firstUnexecuted_split hd he, dropUnexecuted_split hd he, hs]

/-- All that an answer does, in every state: only the unit, the Directive Queue and the Report Queue change. -/
theorem answer_frame (r : Result) (data : Bytes) (s : State) :
    answer r data s = { s with du := none, drq := (answer r data s).drq, rpq := (answer r data s).rpq } := by
  unfold answer
  split <;> [rfl; split <;> rfl]

@[simp] theorem silentUnit_idle {s : State} (h : s.du = none) : silentUnit s = false := by simp [silentUnit, h]

@[simp] theorem silentUnit_doing {s : State} {x : Executing} (h : s.du = some x) : silentUnit s = x.silent := by
  simp [silentUnit, h]

/-! ### Beginning -/

/-- A directive that passes the common checks begins its catalogue entry (R138, R140). -/
theorem beginDirective_ready {row : DirectiveRow} {body : Bytes → State → State} {done : List DrqEntry} {e : DrqEntry}
    {rest : List DrqEntry} {s : State} (hdu : s.du = none) (h : Next done e rest s) (hrow : directiveRow e.frame = row)
    (hdam : e.damaged = false) (hlen : directiveLength row = some (payloadLength e.frame)) :
    beginDirective row body s = body e.frame.payload s := by
  obtain ⟨hq, hd, he⟩ := h
  simp [beginDirective, hdu, hq, firstUnexecuted_split hd he, hrow, hdam, hlen]

/-- A directive that fails one of the common checks is answered by the first that it fails (R140). -/
theorem beginDirective_refused {row : DirectiveRow} {body : Bytes → State → State} {done : List DrqEntry} {e : DrqEntry}
    {rest : List DrqEntry} {s : State} (hdu : s.du = none) (h : Next done e rest s) (hrow : directiveRow e.frame = row)
    (hbad : e.damaged = true ∨ directiveLength row ≠ some (payloadLength e.frame)) :
    beginDirective row body s = s.answered (if e.damaged = true then .damaged else .badParam) [] done e rest := by
  have hs : silentUnit s = false := silentUnit_idle hdu
  have hf : firstUnexecuted s.drq = some e := by rw [h.1]; exact firstUnexecuted_split h.2.1 h.2.2
  by_cases hdam : e.damaged = true
  · simp [beginDirective, hdu, hf, hrow, hdam, answer_next h hs]
  · have hl := hbad.resolve_left hdam
    simp [beginDirective, hdu, hf, hrow, hdam, hl, answer_next h hs]

/-- A directive that is `Ready` begins its catalogue entry on its payload (R138, R140). -/
theorem beginDirective_of_ready {row : DirectiveRow} {body : Bytes → State → State} {code len : Nat} {done : List DrqEntry}
    {e : DrqEntry} {rest : List DrqEntry} {s : State} (h : Ready code len done e rest s)
    (hrow : directiveRow e.frame = row) (hl : directiveLength row = some len) :
    beginDirective row body s = body e.frame.payload s := by
  obtain ⟨-, hdu, hn, hdam, -, -, hst⟩ := h
  exact beginDirective_ready hdu hn hrow hdam (by rw [hl, payloadLength, hst])

/-- The answer to a directive that is `Ready`, given on any state with its entry (R139). -/
theorem answer_of_ready {code len : Nat} {done : List DrqEntry} {e : DrqEntry} {rest : List DrqEntry} {s t : State}
    {r : Result} {data : Bytes} (h : Ready code len done e rest s) (hdu : t.du = s.du) (hq : t.drq = s.drq) :
    answer r data t = t.answered r data done e rest :=
  answer_next ⟨by rw [hq]; exact h.2.2.1.1, h.2.2.1.2⟩ (silentUnit_idle (hdu.trans h.2.1))

/-- The end of a directive that runs, given on any state with its entry: answered, or freed in silence (R98, R138, R139). -/
theorem answer_of_runs {task : Task} {silent : Bool} {done : List DrqEntry} {e : DrqEntry} {rest : List DrqEntry}
    {s t : State} {r : Result} {data : Bytes} (h : Runs task silent done e rest s) (hdu : silentUnit t = silent)
    (hq : t.drq = s.drq) : answer r data t = t.concluded silent r data done e rest := by
  have hn : Next done e rest t := ⟨by rw [hq]; exact h.2.2.1, h.2.2.2⟩
  cases silent
  · exact answer_next hn hdu
  · exact answer_silent hn hdu

/-- While the unit is EXECUTING, or with nothing to execute, no directive begins. -/
theorem beginDirective_nothing {row : DirectiveRow} {body : Bytes → State → State} {s : State}
    (h : s.du ≠ none ∨ firstUnexecuted s.drq = none) : beginDirective row body s = s := by
  unfold beginDirective
  split
  · rename_i h1 h2
    rcases h with h | h
    · exact absurd h1 h
    · simp [h] at h2
  · rfl

/-- A command that is not the next directive's own begins nothing (log entry 2). -/
theorem beginDirective_other {row : DirectiveRow} {body : Bytes → State → State} {done : List DrqEntry} {e : DrqEntry}
    {rest : List DrqEntry} {s : State} (h : Next done e rest s) (hrow : directiveRow e.frame ≠ row) :
    beginDirective row body s = s := by
  have hf : firstUnexecuted s.drq = some e := by rw [h.1]; exact firstUnexecuted_split h.2.1 h.2.2
  unfold beginDirective
  rw [hf]
  cases s.du <;> simp [hrow]

/-! ### Parameters -/

theorem indexParam_in {n : Nat} [NeZero n] {p : Bytes} {i : Nat} {k : Fin n} (h : (byteAt p i).toNat = k.val) :
    indexParam n p i = some k := by
  have hk : (byteAt p i).toNat < n := by rw [h]; exact k.isLt
  have hv : Fin.ofNat n (byteAt p i).toNat = k := Fin.ext (by rw [h]; exact Nat.mod_eq_of_lt k.isLt)
  unfold indexParam
  simp only [hk, if_true, hv]

theorem indexParam_out {n : Nat} [NeZero n] {p : Bytes} {i : Nat} (h : n ≤ (byteAt p i).toNat) :
    indexParam n p i = none := by
  simp [indexParam, Nat.not_lt.mpr h]

end Sys2Proof.Machine
end

