-- ==== Sys2Proof/Laws/Heads.lean ====
section
/-! SUPPORT. The intake queues and their heads: heads at rest stay as they are, a frame that comes to an empty queue is the head
at once, and which class an arriving frame has. -/

namespace Sys2Proof.Machine

/-! ### Heads at rest -/

/-- The front head is served no further when it is empty or holds a candidate. -/
theorem frontHead_rest {n : Nat} {s : State} (h : ∀ q ∈ s.fiq.head?, frontCandidate q s = true) : frontHead n s = s := by
  cases n with
  | zero => rfl
  | succ n =>
    unfold frontHead
    cases hq : s.fiq with
    | nil => rfl
    | cons q qs => simp [h q (by simp [hq])]

/-- The media head is served no further when it is empty or holds a judged frame. -/
theorem mediaHead_rest {n : Nat} {s : State} (h : s.miq = [] ∨ s.verdict.isSome = true) : mediaHead n s = s := by
  cases n with
  | zero => rfl
  | succ n =>
    unfold mediaHead
    rcases h with h | h <;> simp [h]

/-- Heads at rest stay as they are. -/
theorem heads_rest {s : State} (hf : ∀ q ∈ s.fiq.head?, frontCandidate q s = true)
    (hm : s.miq = [] ∨ s.verdict.isSome = true) : heads s = s := by
  unfold heads
  rw [frontHead_rest hf]
  exact mediaHead_rest hm

/-- At rest, the media queue is empty or its head judged. -/
theorem AtRest.media {s : State} (h : AtRest s) : s.miq = [] ∨ s.verdict.isSome = true := by
  by_cases hm : s.miq = []
  · exact Or.inl hm
  · exact Or.inr (h.2.1.mpr hm)

/-- Heads at rest stay as they are. -/
theorem heads_atRest {s : State} (h : AtRest s) : heads s = s := heads_rest h.1 h.media

/-- No frame waits to be taken at a head: the front head is a candidate and the media head is judged. -/
theorem headsWait_false {s : State} :
    headsWait s = false ↔
      (∀ q ∈ s.fiq.head?, frontCandidate q s = true) ∧ (s.miq = [] ∨ s.verdict.isSome = true) := by
  unfold headsWait
  cases hq : s.fiq <;> cases hm : s.miq <;> cases hv : s.verdict <;> simp

/-- Heads at rest wait for nothing. -/
theorem AtRest.awake {s : State} (h : AtRest s) : headsWait s = false := headsWait_false.mpr ⟨h.1, h.media⟩

/-- Where no frame waits at a head, taking frames changes nothing. -/
theorem heads_awake {s : State} (h : headsWait s = false) : heads s = s :=
  heads_rest (headsWait_false.mp h).1 (headsWait_false.mp h).2

/-- Where no frame waits at a head, an event finds the heads served. -/
theorem serveHeads_awake {s : State} (h : headsWait s = false) : serveHeads s = s := by
  unfold serveHeads
  rw [h]
  rfl

/-- An event of an awake part is its effect and nothing else (log entry 10). -/
theorem atEvent_awake {f : State → State} {s : State} (h : Awake s) : atEvent f s = .next (f s) := by
  unfold atEvent
  rw [h.1, serveHeads_awake h.2]
  rfl

/-- Whether a frame is a candidate depends on its context alone. -/
theorem frontCandidate_congr {q : Queued} {s s' : State}
    (h : s'.contexts[frameTag q.frame] = s.contexts[frameTag q.frame]) : frontCandidate q s' = frontCandidate q s := by
  unfold frontCandidate
  rw [h]

/-- A change to one context that has no frame at the front head leaves heads at rest. -/
theorem heads_after_context {t : Tag} {s s' : State} (h : AtRest s) (hq : s'.fiq = s.fiq) (hm : s'.miq = s.miq)
    (hv : s'.verdict = s.verdict) (hc : ∀ i, i ≠ t → s'.contexts[i] = s.contexts[i])
    (hh : ∀ q ∈ s.fiq.head?, frameTag q.frame ≠ t) : heads s' = s' := by
  apply heads_rest
  · intro q hq'
    rw [hq] at hq'
    rw [← h.1 q hq']
    exact frontCandidate_congr (hc _ (hh q hq'))
  · rw [hm, hv]
    exact h.media

/-- A flag leaves heads at rest. -/
theorem heads_flagged {x : Fin 15} {s : State} (h : AtRest s) : heads (s.flagged x) = s.flagged x :=
  heads_rest h.1 h.media

/-! ### The classes of arriving frames -/

/-- What an arriving frame is, by the numbers of its kind and tag (R87, R151, Table 10-1). -/
theorem arrivalClass_eq (p : PortId) (h : Header) :
    arrivalClass p h =
      if h.kind.toNat = 8 then .flow .hold
      else if h.kind.toNat = 9 then .flow .go
      else if (h.kind.toNat = 2 ∨ (p = .front ∧ h.kind.toNat = 1) ∨
          (p = .media ∧ (h.kind.toNat = 6 ∨ h.kind.toNat = 7))) ∧ h.tag.toNat ≤ 63 then .intake
      else if p = .front ∧ h.kind.toNat = 3 then .directive
      else .wrongKind := by
  have e1 : h.kind = Kind.hold ↔ h.kind.toNat = 8 := byte_eq_iff _ 8 (by omega)
  have e2 : h.kind = Kind.go ↔ h.kind.toNat = 9 := byte_eq_iff _ 9 (by omega)
  have e3 : h.kind = Kind.sector ↔ h.kind.toNat = 2 := byte_eq_iff _ 2 (by omega)
  have e4 : h.kind = Kind.opening ↔ h.kind.toNat = 1 := byte_eq_iff _ 1 (by omega)
  have e5 : h.kind = Kind.directive ↔ h.kind.toNat = 3 := byte_eq_iff _ 3 (by omega)
  have e6 : h.kind = Kind.zero ↔ h.kind.toNat = 6 := byte_eq_iff _ 6 (by omega)
  have e7 : h.kind = Kind.void ↔ h.kind.toNat = 7 := byte_eq_iff _ 7 (by omega)
  unfold arrivalClass
  cases p <;> simp only [e1, e2, e3, e4, e5, e6, e7] <;> split_ifs <;> first | rfl | (simp at *; done) | (simp at *; omega)

/-! ### Arrivals -/

/-- An arrival at a listening port is a reception, and the heads and the transmitters follow (R87). -/
theorem exec_frameArrival {p : PortId} {f : Frame} {s : State} (h : Listening p s) :
    exec (.frameArrival p f) s = .next (settle (receive p f s)) := by
  show execFrameArrival p f s = _
  unfold execFrameArrival
  rw [atEvent_awake h.1, if_neg (by rw [h.2]; exact Link.noConfusion)]

/-- An intake queue's new contents, with the marks tested at their depth (R86, R93). -/
theorem putIntake_eq (p : PortId) (q : List Queued) (s : State) :
    putIntake p q s = State.testedAt p q.length (State.withIntake p q s) := by
  cases p <;> simp [putIntake, testMarks, State.testedAt, State.withIntake]

/-- A frame comes to an empty intake queue and leaves it again in one event. -/
theorem popIntake_putIntake {p : PortId} {q : Queued} {s : State} (h : s.intake p = [])
    (hv : p = .media → s.verdict = none) : popIntake p (putIntake p [q] s) = s.passed p := by
  cases p
  · have h' : s.fiq = [] := h
    cases s
    simp_all [popIntake, putIntake, testMarks, State.passed, putPort]
  · have h' : s.miq = [] := h
    have hv' := hv rfl
    cases s
    simp_all [popIntake, putIntake, testMarks, State.passed, putPort]

/-- The lone frame of the front queue is disposed of, and the heads rest then. -/
theorem heads_front_alone {q : Queued} {s : State} (hc : frontCandidate q s = false)
    (hm : (disposeFront q (putIntake .front [q] s)).miq = [] ∨
      (disposeFront q (putIntake .front [q] s)).verdict.isSome = true) :
    heads (putIntake .front [q] s) = disposeFront q (putIntake .front [q] s) := by
  have hq : (putIntake .front [q] s).fiq = [q] := rfl
  have hc' : frontCandidate q (putIntake .front [q] s) = false := hc
  unfold heads
  rw [hq]
  simp only [List.length_cons, List.length_nil, Nat.zero_add]
  unfold frontHead
  rw [hq]
  simp only [hc', Bool.false_eq_true, if_false]
  exact mediaHead_rest hm

/-- The lone frame of the media queue is disposed of or judged. -/
theorem heads_media_alone {q : Queued} {s : State} (hv : s.verdict = none)
    (hf : ∀ x ∈ s.fiq.head?, frontCandidate x s = true) :
    heads (putIntake .media [q] s) = disposeMedia q (putIntake .media [q] s) := by
  have hq : (putIntake .media [q] s).miq = [q] := rfl
  have hv' : (putIntake .media [q] s).verdict = none := hv
  unfold heads
  rw [frontHead_rest (by exact hf)]
  dsimp only
  rw [hq]
  simp only [List.length_cons, List.length_nil, Nat.zero_add]
  unfold mediaHead
  rw [hq, hv']
  simp only [Option.isSome_none, Bool.false_eq_true, if_false]
  rfl

end Sys2Proof.Machine
end

