-- ==== Sys2Proof/Laws/Keys.lean ====
section
/-! SUPPORT. The cutting of transfers by a drain. -/

namespace Sys2Proof.Machine

/-- A transfer with jobs in flight and nothing at a head or held ends, and stays in ENDING (R78 to R80). -/
theorem endTransfer_stays {t : Tag} {e : Ending} {s : State} (h1 : s.fiq = []) (h2 : s.miq = [])
    (h3 : ∀ l : LaneIx, heldRead s.lanes[l] = none) (hj : s.contexts[t].jobs ≠ 0)
    (hrun : s.contexts[t].state.running = true) :
    endTransfer t e none s =
      { s with
        contexts := s.contexts.set t
          { s.contexts[t] with state := .ending, ending := some e, firstFail := none, deadline := none } } := by
  unfold endTransfer enterEnding
  rw [if_pos hrun]
  dsimp only
  rw [discardFrontHead_none (by simp [h1]), discardMediaHead_none (by simp [h2]), discardHeldReads_none (by
    intro l
    change heldRead s.lanes[l] ≠ _
    rw [h3]
    simp)]
  unfold leaveEnding
  rw [if_neg (by simp [-Fin.getElem_fin, hj])]
  rfl

/-- The cutting of a list of transfers with jobs in flight and nothing at a head or held: those that are ACTIVE or FLUSHING
end ERASED, and stay in ENDING (R55, R57). -/
theorem cutTransfers_stay (tags : List Tag) : ∀ s : State, s.fiq = [] → s.miq = [] →
    (∀ l : LaneIx, heldRead s.lanes[l] = none) → (∀ t ∈ tags, s.contexts[t].jobs ≠ 0) →
    cutTransfers tags s =
      { s with
        contexts := Vector.ofFn (fun t : Tag => if t ∈ tags ∧ s.contexts[t].state.running = true
          then { s.contexts[t] with state := .ending, ending := some .erased, firstFail := none, deadline := none }
          else s.contexts[t]) } := by
  induction tags with
  | nil =>
    intro s _ _ _ _
    have hv : s.contexts = Vector.ofFn (fun t : Tag => s.contexts[t]) := by
      ext i hi : 1
      simp
    change s = _
    simp only [List.not_mem_nil, false_and, if_false]
    rw [← hv]
  | cons a as ih =>
    intro s h1 h2 h3 h4
    change cutTransfers as (endTransfer a .erased none s) = _
    by_cases hrun : s.contexts[a].state.running = true
    · rw [endTransfer_stays h1 h2 h3 (h4 a (by simp)) hrun, ih _ (by exact h1) (by exact h2) (by exact h3)]
      · dsimp only
        congr 2
        funext t
        by_cases hta : a = t
        · subst hta
          have he : ¬ ContextState.running .ending = true := by decide
          simp [-Fin.getElem_fin, hrun, he]
        · rw [set_get_ne _ _ hta]
          simp [-Fin.getElem_fin, Ne.symm hta]
      · intro t ht
        dsimp only
        rw [set_get]
        split_ifs with h
        · subst h
          exact h4 a (by simp)
        · exact h4 t (by simp [ht])
    · rw [endTransfer_elsewhere (by simpa [-Fin.getElem_fin] using hrun), ih _ h1 h2 h3 (fun t ht => h4 t (by simp [ht]))]
      congr 2
      funext t
      by_cases hta : a = t
      · subst hta
        simp [-Fin.getElem_fin, hrun]
      · simp [-Fin.getElem_fin, Ne.symm hta]

end Sys2Proof.Machine
end

