-- ==== Sys2Proof/Laws/Lanes.lean ====
section
/-! SUPPORT. The Lane Dispatcher's choice, the leaving of an intake head, and the entry of a lane output into its queue. -/

namespace Sys2Proof.Machine

/-! ### The grant -/

/-- The lane that a grant takes is the lowest-numbered IDLE one (R102). -/
theorem idleLane_lowest {l : LaneIx} {s : State} (h : s.lanes[l] = .idle)
    (h' : ∀ l' : LaneIx, l' < l → s.lanes[l'] ≠ .idle) : idleLane s = some l := by
  unfold idleLane allLanes
  rw [show List.finRange 4 = [0, 1, 2, 3] from rfl]
  have h0 := h' 0
  have h1 := h' 1
  have h2 := h' 2
  have h3 := h' 3
  fin_cases l <;> simp_all [-Fin.getElem_fin]

/-- No lane is granted when none is IDLE (R102). -/
theorem idleLane_none {s : State} : idleLane s = none ↔ ∀ l : LaneIx, s.lanes[l] ≠ .idle := by
  simp [idleLane, allLanes]

/-- The front candidate is the frame that waits at the front head (R101). -/
theorem waitingFront_iff {q : Queued} {s : State} : waitingFront s = some q ↔ Waits .front q s := by
  unfold waitingFront Waits
  cases hq : s.fiq with
  | nil => simp
  | cons a as =>
    simp
    constructor
    · rintro ⟨h, rfl⟩
      exact ⟨rfl, h⟩
    · rintro ⟨rfl, h⟩
      exact ⟨h, rfl⟩

/-- The media candidate is the judged frame that waits at the media head (R101). -/
theorem waitingMedia_iff {q : Queued} {s : State} : waitingMedia s = some q ↔ Waits .media q s := by
  unfold waitingMedia Waits
  cases hq : s.miq with
  | nil => simp
  | cons a as =>
    simp
    constructor
    · rintro ⟨h, rfl⟩
      exact ⟨rfl, h⟩
    · rintro ⟨rfl, h⟩
      exact ⟨h, rfl⟩

/-- The frame that waits on a side stands at that side's head. -/
theorem Waits.head {side : PortId} {q : Queued} {s : State} (h : Waits side q s) :
    (if side = .front then s.fiq else s.miq).head? = some q := by
  rcases h with ⟨rfl, h, _⟩ | ⟨rfl, h, _⟩
  · exact h
  · exact h

/-- The grant goes to the only candidate, or to the one the pointer names (R102). -/
theorem grantedCandidate_iff {side : PortId} {q : Queued} {s : State} :
    grantedCandidate s = some (side, q) ↔ Granted side q s := by
  unfold grantedCandidate
  cases hf : waitingFront s with
  | none =>
    have hf' : ∀ q, ¬ Waits .front q s := fun q h => by
      rw [← waitingFront_iff, hf] at h
      cases h
    cases hm : waitingMedia s with
    | none =>
      have hm' : ∀ q, ¬ Waits .media q s := fun q h => by
        rw [← waitingMedia_iff, hm] at h
        cases h
      simp only [reduceCtorEq, false_iff, Granted, not_and]
      intro h
      cases side
      · exact absurd h (hf' q)
      · exact absurd h (hm' q)
    | some m =>
      have hm' := waitingMedia_iff.mp hm
      simp only [Option.some.injEq, Prod.mk.injEq]
      constructor
      · rintro ⟨rfl, rfl⟩
        exact ⟨hm', Or.inr (fun q' _ => hf' q')⟩
      · rintro ⟨h, _⟩
        cases side
        · exact absurd h (hf' q)
        · rw [← waitingMedia_iff, hm] at h
          exact ⟨rfl, by injection h⟩
  | some f =>
    have hf' := waitingFront_iff.mp hf
    cases hm : waitingMedia s with
    | none =>
      have hm' : ∀ q, ¬ Waits .media q s := fun q h => by
        rw [← waitingMedia_iff, hm] at h
        cases h
      simp only [Option.some.injEq, Prod.mk.injEq]
      constructor
      · rintro ⟨rfl, rfl⟩
        exact ⟨hf', Or.inr (fun q' _ => hm' q')⟩
      · rintro ⟨h, _⟩
        cases side
        · rw [← waitingFront_iff, hf] at h
          exact ⟨rfl, by injection h⟩
        · exact absurd h (hm' q)
    | some m =>
      have hm' := waitingMedia_iff.mp hm
      dsimp only
      cases ht : s.laneTurn with
      | front =>
        simp only [Option.some.injEq, Prod.mk.injEq]
        constructor
        · rintro ⟨rfl, rfl⟩
          exact ⟨hf', Or.inl (by simp [ht])⟩
        · rintro ⟨h, h2⟩
          cases side
          · rw [← waitingFront_iff, hf] at h
            exact ⟨rfl, by injection h⟩
          · rcases h2 with h2 | h2
            · simp [ht] at h2
            · exact absurd hf' (h2 f hf'.head)
      | media =>
        simp only [Option.some.injEq, Prod.mk.injEq]
        constructor
        · rintro ⟨rfl, rfl⟩
          exact ⟨hm', Or.inl (by simp [ht])⟩
        · rintro ⟨h, h2⟩
          cases side
          · rcases h2 with h2 | h2
            · simp [ht] at h2
            · exact absurd hm' (h2 m hm'.head)
          · rw [← waitingMedia_iff, hm] at h
            exact ⟨rfl, by injection h⟩

/-! ### Heads that leave, outputs that enter -/

/-- A delivery leaves the state of its context as it is. -/
theorem delivered_state (r : ReadStatus) (f : Frame) (t : Tag) (s : State) :
    (s.delivered t r f).contexts[t].state = s.contexts[t].state := by
  unfold State.delivered
  dsimp only
  split_ifs <;> simp [-Fin.getElem_fin, State.flagged]

/-- A write output enters the MOQ (R108). -/
theorem enterOutput_moq (l : LaneIx) (j : Job) (f : Frame) (s : State) :
    enterOutput l j f .moq s = ((s.released l j).emitted j.tag f).closed j.tag := by
  rw [← leaveEnding_finishTransfer]
  rfl

/-- A read output enters the FSQ (R108). -/
theorem enterOutput_fsq (l : LaneIx) (j : Job) (f : Frame) (s : State) :
    enterOutput l j f .fsq s = ((s.released l j).delivered j.tag (outputStatus f) f).closed j.tag := by
  rw [← leaveEnding_finishTransfer, ← deliver_eq]
  rfl

/-- The finished count of a context that is not ENDING has risen (R72, R75). -/
theorem finishTransfer_closed {t : Tag} {s : State} (h : s.contexts[t].state ≠ .ending) :
    finishTransfer t s = s.closed t := by
  rw [← leaveEnding_finishTransfer]
  unfold leaveEnding
  rw [if_neg]
  rintro ⟨hx, -⟩
  unfold finishTransfer at hx
  split at hx
  · simp [-Fin.getElem_fin, enterReporting, putContext] at hx
  · exact h hx

end Sys2Proof.Machine
end

