-- ==== Sys2Proof/Laws/Links.lean ====
section
/-! SUPPORT. What the leaving of a drain set, and the release of a lane, leave of the slots and of the unit's drain: the
steps of which the link losses are made. -/

namespace Sys2Proof.Machine

/-- An answer ends the drain, if one was going. -/
theorem drainedSlot_answer (r : Result) (data : Bytes) (s : State) : drainedSlot (answer r data s) = none := by
  have h : (answer r data s).du = none := by
    unfold answer
    split
    · rfl
    · split_ifs <;> rfl
  unfold drainedSlot
  rw [h]

/-- A drain that is left goes on for its slot or has ended (R56). -/
theorem drainedSlot_leaveDrain (t : Tag) (s : State) :
    drainedSlot (leaveDrain t s) = drainedSlot s ∨ drainedSlot (leaveDrain t s) = none := by
  unfold leaveDrain
  split
  · dsimp only
    split_ifs
    · right
      unfold completeDrain
      split
      · exact drainedSlot_answer _ _ _
      · split_ifs
        · exact drainedSlot_answer _ _ _
        · rfl
    · exact Or.inl rfl
    · exact Or.inl rfl
  · exact Or.inl rfl

/-- Leaving a drain set touches no slot but the one that is drained (R56, R58, R59). -/
theorem leaveDrain_slots {k : SlotIx} (t : Tag) {s : State} (h : drainedSlot s ≠ some k) :
    (leaveDrain t s).slots[k] = s.slots[k] := by
  unfold leaveDrain
  split
  · rename_i d goal timer silent hdu
    have hd : d ≠ k := by
      rintro rfl
      exact h (by unfold drainedSlot; rw [hdu])
    dsimp only
    split_ifs
    · unfold completeDrain
      split
      · simp [-Fin.getElem_fin, emptySlot, putSlot, set_get_ne _ _ hd]
      · split_ifs <;> simp [-Fin.getElem_fin, emptySlot, fillingSlot, putSlot, set_get_ne _ _ hd]
    · simp [-Fin.getElem_fin, putSlot, set_get_ne _ _ hd]
    · rfl
  · rfl

/-- Without a drain, leaving a drain set does nothing (R56). -/
theorem leaveDrain_undrained (t : Tag) {s : State} (h : drainedSlot s = none) : leaveDrain t s = s := by
  unfold leaveDrain
  split
  · rename_i hdu
    unfold drainedSlot at h
    rw [hdu] at h
    simp at h
  · rfl

/-- The release of a lane leaves the unit's drain, and of its job's slot it lowers the pin count alone (R109). -/
theorem released_slots (l : LaneIx) (j : Job) (s : State) (k : SlotIx) :
    drainedSlot (s.released l j) = drainedSlot s ∧
      (s.released l j).slots[k] =
        { s.slots[k] with pins := s.slots[k].pins - if j.slot = k then 1 else 0 } := by
  refine ⟨rfl, ?_⟩
  unfold State.released
  dsimp only
  by_cases h : j.slot = k
  · subst h
    simp [-Fin.getElem_fin]
  · rw [set_get_ne _ _ h, if_neg h]
    rfl

end Sys2Proof.Machine
end

