-- ==== Sys2Proof/Laws/Ports.lean ====
section
/-! SUPPORT. What the transmitters' choice at the end of an event leaves alone, and what the mark test and the Event Summary's
operations do. -/

namespace Sys2Proof.Machine

/-! ### The transmitters -/

/-- The front transmitter touches the front port and the arbiter's pointer, and nothing else (R96). -/
theorem frontTransmit_frame (s : State) :
    frontTransmit s = { s with front := (frontTransmit s).front, frontTurn := (frontTransmit s).frontTurn } := by
  unfold frontTransmit
  split
  · split <;> rfl
  · rfl

/-- The media transmitter touches the media port, and nothing else (R97). -/
theorem mediaTransmit_frame (s : State) : mediaTransmit s = { s with media := (mediaTransmit s).media } := by
  unfold mediaTransmit
  split
  · split <;> rfl
  · rfl

/-- The choice of both transmitters touches the two ports and the arbiter's pointer, and nothing else. -/
theorem transmit_frame (s : State) :
    transmit s =
      { s with front := (frontTransmit s).front, media := (transmit s).media, frontTurn := (frontTransmit s).frontTurn } := by
  have h := frontTransmit_frame s
  unfold transmit
  generalize frontTransmit s = u at h ⊢
  refine (mediaTransmit_frame u).trans ?_
  generalize (mediaTransmit u).media = m
  rw [h]

@[simp] theorem transmit_inReset (s : State) : (transmit s).inReset = s.inReset := by rw [transmit_frame]
@[simp] theorem transmit_time (s : State) : (transmit s).time = s.time := by rw [transmit_frame]
@[simp] theorem transmit_autoLock (s : State) : (transmit s).autoLock = s.autoLock := by rw [transmit_frame]
@[simp] theorem transmit_fiq (s : State) : (transmit s).fiq = s.fiq := by rw [transmit_frame]
@[simp] theorem transmit_miq (s : State) : (transmit s).miq = s.miq := by rw [transmit_frame]
@[simp] theorem transmit_drq (s : State) : (transmit s).drq = s.drq := by rw [transmit_frame]
@[simp] theorem transmit_moq (s : State) : (transmit s).moq = s.moq := by rw [transmit_frame]
@[simp] theorem transmit_fsq (s : State) : (transmit s).fsq = s.fsq := by rw [transmit_frame]
@[simp] theorem transmit_rpq (s : State) : (transmit s).rpq = s.rpq := by rw [transmit_frame]
@[simp] theorem transmit_verdict (s : State) : (transmit s).verdict = s.verdict := by rw [transmit_frame]
@[simp] theorem transmit_ranges (s : State) : (transmit s).ranges = s.ranges := by rw [transmit_frame]
@[simp] theorem transmit_slots (s : State) : (transmit s).slots = s.slots := by rw [transmit_frame]
@[simp] theorem transmit_wrapping (s : State) : (transmit s).wrapping = s.wrapping := by rw [transmit_frame]
@[simp] theorem transmit_random (s : State) : (transmit s).random = s.random := by rw [transmit_frame]
@[simp] theorem transmit_contexts (s : State) : (transmit s).contexts = s.contexts := by rw [transmit_frame]
@[simp] theorem transmit_lanes (s : State) : (transmit s).lanes = s.lanes := by rw [transmit_frame]
@[simp] theorem transmit_laneTurn (s : State) : (transmit s).laneTurn = s.laneTurn := by rw [transmit_frame]
@[simp] theorem transmit_moqHold (s : State) : (transmit s).moqHold = s.moqHold := by rw [transmit_frame]
@[simp] theorem transmit_fsqHold (s : State) : (transmit s).fsqHold = s.fsqHold := by rw [transmit_frame]
@[simp] theorem transmit_du (s : State) : (transmit s).du = s.du := by rw [transmit_frame]
@[simp] theorem transmit_limits (s : State) : (transmit s).limits = s.limits := by rw [transmit_frame]
@[simp] theorem transmit_events (s : State) : (transmit s).events = s.events := by rw [transmit_frame]
@[simp] theorem transmit_pending (s : State) : (transmit s).pending = s.pending := by rw [transmit_frame]

/-- Of the front port the transmitter changes only the frame in transmission and what the partner was last told. -/
theorem transmit_front (s : State) :
    (transmit s).front = { s.front with sending := (transmit s).front.sending, told := (transmit s).front.told } := by
  have h : (transmit s).front = (frontTransmit s).front := by rw [transmit_frame]
  rw [h]
  unfold frontTransmit
  split
  · split
    · rename_i x hx
      cases x <;> rfl
    · rfl
  · rfl

/-- Of the media port the transmitter changes only the frame in transmission and what the partner was last told. -/
theorem transmit_media (s : State) :
    (transmit s).media = { s.media with sending := (transmit s).media.sending, told := (transmit s).media.told } := by
  have hm : (frontTransmit s).media = s.media := by rw [frontTransmit_frame]
  unfold transmit
  rw [← hm]
  generalize frontTransmit s = u
  unfold mediaTransmit
  split
  · split
    · rename_i x hx
      cases x <;> rfl
    · rfl
  · rfl

/-- A port with a frame in transmission keeps it. -/
theorem transmit_front_sending {s : State} {x : Sending} (h : s.front.sending = some x) : (transmit s).front = s.front := by
  have h' : (transmit s).front = (frontTransmit s).front := by rw [transmit_frame]
  rw [h', frontTransmit, if_neg]
  simp [h]

/-! ### The mark test -/

/-- A flow frame of the port is in transmission (R93). -/
theorem flowInTransmission_iff (x : Port) : flowInTransmission x = true ↔ ∃ f, x.sending = some (.flow f) := by
  unfold flowInTransmission
  split
  · rename_i h
    simp [h]
  · rename_i h
    constructor
    · intro h'
      cases h'
    · rintro ⟨f, hf⟩
      exact absurd hf (h f)

/-- Of a port the mark test changes only the own hold and the pending flow frame (R93). -/
theorem markTest_frame (high low depth : Nat) (x : Port) :
    markTest high low depth x =
      { x with
        held := (markTest high low depth x).held, pendingFlow := (markTest high low depth x).pendingFlow } := by
  unfold markTest
  split_ifs <;> rfl

/-! ### The Event Summary -/

/-- A flag is set: the state that `State.flagged` describes (R145, R149). -/
theorem raise_eq (f : Fin 15) (s : State) : raise f s = s.flagged f := rfl

/-- Setting a flag sets its bit and no other (R145). -/
theorem raise_flags (f g : Fin 15) (e : Events) :
    (e.raise f).flags.getLsbD g.val = (e.flags.getLsbD g.val || decide (g = f)) := by
  have hf := f.isLt
  have hg := g.isLt
  simp only [Events.raise, Events.evaluate, flagBit, BitVec.getLsbD_or, BitVec.getLsbD_shiftLeft]
  by_cases h : g = f
  · subst h
    simp
  · have h' : g.val ≠ f.val := fun hv => h (Fin.ext hv)
    have h2 : ¬ (g.val - f.val = 0 ∧ ¬ g.val < f.val) := by omega
    simp only [BitVec.getLsbD_one, h, decide_false, Bool.or_false]
    by_cases hlt : g.val < f.val
    · simp [hlt]
    · have : g.val - f.val ≠ 0 := by omega
      simp [this]

/-- Clearing clears the selected flags and no other (R146). -/
theorem clear_flags (m : BitVec 15) (g : Fin 15) (e : Events) :
    (e.clear m).flags.getLsbD g.val = (e.flags.getLsbD g.val && !m.getLsbD g.val) := by
  simp [Events.clear, Events.evaluate, g.isLt]

end Sys2Proof.Machine
end

