-- ==== Sys2Proof/Laws/Ranges.lean ====
section
/-! SUPPORT. What the Boolean tests on the Range Table say: extents that meet, busy extents, overlaps, the touched ranges, and
the locking of every marked range. -/

namespace Sys2Proof.Machine

/-- The test for extents that share an LBA (R29). -/
theorem extentsMeet_iff (a e b f : Nat) : extentsMeet a e b f = true ↔ Meets a e b f := by
  simp only [extentsMeet, decide_eq_true_eq, Meets]
  omega

/-- The test for an extent that an open span meets (R30). -/
theorem extentBusy_iff (s : State) (a e : Nat) : extentBusy s.contexts a e = true ↔ SpanMeets a e s := by
  simp only [extentBusy, List.any_eq_true, Bool.and_eq_true, extentsMeet_iff, SpanMeets, allTags, List.mem_finRange,
    true_and]

/-- The distinct elements of a list are its elements. -/
theorem mem_firsts (l : List RangeIx) (k : RangeIx) : k ∈ firsts l ↔ k ∈ l := by
  induction l with
  | nil => simp [firsts]
  | cons a as ih =>
    simp only [firsts, List.mem_cons, List.mem_filter, ih, bne_iff_ne]
    by_cases h : k = a <;> simp [h]

/-- A span touches the ranges that the lookups of its LBAs return (R25). -/
theorem mem_touched (rt : Vector RangeRecord 16) (start count : Nat) (k : RangeIx) :
    k ∈ touched rt start count ↔ ∃ i < count, lookup rt (start + i) = k := by
  simp [touched, mem_firsts]

/-- The test for an open span that holds an LBA of range 0 (R30). -/
theorem globalBusy_iff (s : State) :
    globalBusy s.ranges s.contexts = true ↔
      ∃ t : Tag, s.contexts[t].state.isOpen = true ∧
        ∃ i < s.contexts[t].count, lookup s.ranges (s.contexts[t].start + i) = 0 := by
  simp only [globalBusy, List.any_eq_true, Bool.and_eq_true, List.contains_eq_mem, decide_eq_true_eq, mem_touched, allTags,
    List.mem_finRange, true_and]

/-- The test for a new extent that meets another enabled range 1 to 15 (R29). -/
theorem overlapsOther_iff (s : State) (k : RangeIx) (r : RangeRecord) :
    overlapsOther k r s.ranges = true ↔
      ∃ j : RangeIx, j ≠ 0 ∧ j ≠ k ∧ s.ranges[j].enabled = true ∧
        Meets s.ranges[j].start (s.ranges[j].start + s.ranges[j].length) r.start (r.start + r.length) := by
  simp only [overlapsOther, List.any_eq_true, Bool.and_eq_true, extentsMeet_iff, rangeIndices, List.mem_finRange, true_and,
    bne_iff_ne, RangeRecord.stop, and_assoc, ne_eq]

/-- The test for a busy current extent (R30, R32). -/
theorem currentExtentBusy_iff (s : State) (k : RangeIx) :
    currentExtentBusy k s = true ↔
      s.ranges[k].enabled = true ∧ SpanMeets s.ranges[k].start (s.ranges[k].start + s.ranges[k].length) s := by
  simp only [currentExtentBusy, Bool.and_eq_true, extentBusy_iff, RangeRecord.stop]

/-- A range of the span uses a slot when it is enabled and names it (R21, R55). -/
theorem spanUses_iff (rt : Vector RangeRecord 16) (k : SlotIx) (start count : Nat) :
    spanUses rt k start count = true ↔
      ∃ i < count, rt[lookup rt (start + i)].enabled = true ∧ rt[lookup rt (start + i)].slot = some k := by
  simp only [spanUses, List.any_eq_true, mem_touched, references, Bool.and_eq_true, beq_iff_eq]
  constructor
  · rintro ⟨_, ⟨i, hi, rfl⟩, h⟩
    exact ⟨i, hi, h⟩
  · rintro ⟨i, hi, h⟩
    exact ⟨_, ⟨i, hi, rfl⟩, h⟩

/-- The drain set of a slot that no open span uses is empty (R55). -/
theorem drainSetOf_nil {k : SlotIx} {s : State}
    (h : ∀ t : Tag, s.contexts[t].state.isOpen = true → ∀ i < s.contexts[t].count,
      ¬ (s.ranges[lookup s.ranges (s.contexts[t].start + i)].enabled = true ∧
        s.ranges[lookup s.ranges (s.contexts[t].start + i)].slot = some k)) : drainSetOf k s = [] := by
  unfold drainSetOf
  rw [List.filter_eq_nil_iff]
  intro t _ ht
  rw [Bool.and_eq_true, spanUses_iff] at ht
  obtain ⟨ho, i, hi, hu⟩ := ht
  exact h t ho i hi hu

/-- Every range's record is replaced by its locked one (R35). -/
theorem lockRanges_eq (s : State) : lockRanges s = { s with ranges := s.ranges.map lockedRecord } := by
  have key : ∀ (l : List RangeIx) (s : State), l.Nodup →
      l.foldl (fun s k => putRange k (lockedRecord s.ranges[k]) s) s =
        { s with ranges := Vector.ofFn (fun k : RangeIx => if k ∈ l then lockedRecord s.ranges[k] else s.ranges[k]) } := by
    intro l
    induction l with
    | nil =>
      intro s _
      simp
    | cons a as ih =>
      intro s hn
      obtain ⟨ha, hn⟩ := List.nodup_cons.mp hn
      rw [List.foldl_cons, ih _ hn]
      have hv : (Vector.ofFn (fun k : RangeIx => if k ∈ as
            then lockedRecord (s.ranges.set a (lockedRecord s.ranges[a]))[k]
            else (s.ranges.set a (lockedRecord s.ranges[a]))[k])) =
          Vector.ofFn (fun k : RangeIx => if k ∈ a :: as then lockedRecord s.ranges[k] else s.ranges[k]) := by
        congr 1
        funext k
        by_cases hk : a = k
        · subst hk
          simp [-Fin.getElem_fin, ha]
        · rw [set_get_ne _ _ hk]
          simp only [List.mem_cons, Ne.symm hk, false_or]
      rw [← hv]
      rfl
  unfold lockRanges rangeIndices
  rw [key _ _ (List.nodup_finRange 16)]
  congr 1
  ext i hi : 1
  simp

end Sys2Proof.Machine
end

