-- ==== Sys2Proof/Laws/Timers.lean ====
section
/-! SUPPORT. The timers: which run, when one may expire, and when none is due. -/

namespace Sys2Proof.Machine

/-- A property of every timer, timer by timer. -/
theorem forall_timer {p : TimerId → Prop} : (∀ x, p x) ↔ p .autoLock ∧ p .drain ∧ ∀ t, p (.idle t) := by
  constructor
  · exact fun h => ⟨h _, h _, fun t => h _⟩
  · rintro ⟨h1, h2, h3⟩ (_ | _ | t)
    · exact h1
    · exact h2
    · exact h3 t

/-- A property of the deadline, if there is one, as a Boolean. -/
theorem forall_deadline {o : Option Time} {p : Time → Prop} [DecidablePred p] :
    (∀ d ∈ o, p d) ↔ o.all (fun d => decide (p d)) = true := by
  cases o <;> simp

/-- A window has closed: the deadline has been passed by a unit or more. -/
theorem windowClosed_iff {now d : Time} {unit : Nat} : windowClosed now d unit = true ↔ Closed now d unit := by
  simp [windowClosed, Closed]

/-- A timer is overdue: it is late. -/
theorem overdue_iff {now d : Time} {unit : Nat} : overdue now d unit = true ↔ Late now d unit := by
  simp [overdue, Late]

/-- The drain timer that runs is the Directive Unit's. -/
theorem runningDrain_deadline (s : State) : (runningDrain s).map Prod.snd = s.deadlineOf .drain := by
  unfold runningDrain State.deadlineOf
  rcases s.du with _ | ⟨_ | _ | _ | ⟨k, g, _ | d⟩, b⟩ <;> rfl

/-- A timer may expire exactly when no other would then be late (R157; log entry 3). -/
theorem mayExpire_iff {id : TimerId} {d : Time} {s : State} :
    mayExpire id d s = true ↔ NoneLate id (s.expiryAt d) s := by
  have hd := runningDrain_deadline s
  have he : expiryTime s.time d = s.expiryAt d := rfl
  have hone (x : TimerId) (e : Time) (u : Nat) :
      ((x == id || !overdue (s.expiryAt d) e u) = true) ↔ (x ≠ id → ¬ Late (s.expiryAt d) e u) := by
    rw [Bool.or_eq_true, beq_iff_eq, Bool.not_eq_true', ← Bool.not_eq_true, overdue_iff, or_iff_not_imp_left]
  unfold mayExpire runningTimers NoneLate
  rw [forall_timer, he, ← hd]
  simp only [List.all_append, Bool.and_eq_true, List.all_filterMap, and_assoc]
  refine and_congr ?_ (and_congr ?_ ?_)
  · cases h : s.autoLock <;> simp [-Bool.or_eq_true, State.deadlineOf, h, TimerId.unit, hone]
  · cases h : runningDrain s <;> simp [-Bool.or_eq_true, TimerId.unit, hone]
  · simp only [allTags, List.all_eq_true, List.mem_finRange, true_implies, State.deadlineOf]
    refine forall_congr' fun t => ?_
    by_cases ha : s.contexts[t].state = .active
    · rw [if_pos ha, if_pos ha]
      cases s.contexts[t].deadline <;> simp [-Bool.or_eq_true, TimerId.unit, hone]
    · rw [if_neg ha, if_neg ha]
      simp

/-- Where the window of the auto-lock timer has not closed, it is not due. -/
theorem autoLockDue_none {s : State} (h : ∀ d ∈ s.deadlineOf .autoLock, ¬ Closed s.time d 1000) : autoLockDue s = s := by
  unfold autoLockDue
  split
  · rename_i d hd
    rw [if_neg]
    rw [windowClosed_iff]
    exact h d hd
  · rfl

/-- Where the window of the drain timer has not closed, it is not due. -/
theorem drainDue_none {s : State} (h : ∀ d ∈ s.deadlineOf .drain, ¬ Closed s.time d 1000) : drainDue s = s := by
  unfold drainDue
  split
  · rename_i k d hd
    rw [if_neg]
    rw [windowClosed_iff]
    exact h d (by rw [← runningDrain_deadline, hd]; rfl)
  · rfl

/-- Where the window of an idle deadline has not closed, it is not due. -/
theorem idleDue_none {t : Tag} {s : State} (h : ∀ d ∈ s.deadlineOf (.idle t), ¬ Closed s.time d 100) :
    idleDue t s = s := by
  unfold idleDue
  split
  · rename_i d hd
    rw [if_neg]
    rw [windowClosed_iff]
    rintro ⟨ha, hc⟩
    exact h d (by simp only [State.deadlineOf]; rw [if_pos ha, hd]; rfl) hc
  · rfl

end Sys2Proof.Machine
end

