-- ==== Sys2Proof/Laws/Turns.lean ====
section
/-! SUPPORT. One turn of an intake head: what the ending of a transfer leaves in the queues, and that serving the heads is
serving them after the frame at a head is disposed of. -/

namespace Sys2Proof.Machine

/-! ### What the ending of a transfer leaves -/

/-- Whether two states hold the same frames at their heads: the intake queues, the verdict, and every context but one. -/
abbrev SameHeads (t : Tag) (s s' : State) : Prop :=
  s'.fiq = s.fiq ∧ s'.miq = s.miq ∧ s'.verdict = s.verdict ∧ ∀ i, i ≠ t → s'.contexts[i] = s.contexts[i]

/-- An answer leaves the heads. -/
theorem answer_heads (r : Result) (data : Bytes) (t : Tag) (s : State) : SameHeads t s (answer r data s) := by
  unfold answer
  split
  · exact ⟨rfl, rfl, rfl, fun _ _ => rfl⟩
  · split_ifs <;> exact ⟨rfl, rfl, rfl, fun _ _ => rfl⟩

/-- Leaving a drain set leaves the heads (R56). -/
theorem leaveDrain_heads (t : Tag) (s : State) : SameHeads t s (leaveDrain t s) := by
  refine ⟨?_, ?_, ?_, fun i _ => by rw [leaveDrain_contexts]⟩ <;>
  · unfold leaveDrain
    split
    · dsimp only
      split_ifs
      · unfold completeDrain
        split
        · simp only [(answer_heads _ _ t _).1, (answer_heads _ _ t _).2.1, (answer_heads _ _ t _).2.2.1]
          rfl
        · split_ifs
          · simp only [(answer_heads _ _ t _).1, (answer_heads _ _ t _).2.1, (answer_heads _ _ t _).2.2.1]
            rfl
          · rfl
      · rfl
      · rfl
    · rfl

/-- Releasing the lanes that hold READ outputs of a context leaves the heads (R79). -/
theorem unread_heads (t : Tag) (s : State) : SameHeads t s (s.unread t) := by
  have one (l : LaneIx) (x : State) : SameHeads t x (unreadLane t x l) := by
    unfold unreadLane
    rcases x.lanes[l] with _ | _ | ⟨j, f, _ | _⟩ <;> try exact ⟨rfl, rfl, rfl, fun _ _ => rfl⟩
    dsimp only
    split_ifs with h
    · subst h
      exact ⟨rfl, rfl, rfl, fun i hi => set_get_ne _ _ hi.symm⟩
    · exact ⟨rfl, rfl, rfl, fun _ _ => rfl⟩
  have all (ls : List LaneIx) : ∀ x : State, SameHeads t x (ls.foldl (unreadLane t) x) := by
    induction ls with
    | nil => exact fun x => ⟨rfl, rfl, rfl, fun _ _ => rfl⟩
    | cons l ls ih =>
      intro x
      obtain ⟨a, b, c, d⟩ := ih (unreadLane t x l)
      obtain ⟨a', b', c', d'⟩ := one l x
      exact ⟨a.trans a', b.trans b', c.trans c', fun i hi => (d i hi).trans (d' i hi)⟩
  exact all allLanes s

/-- A count that falls or rises, and all that follows, leaves the heads (R72, R75, R80). -/
theorem closed_heads (t : Tag) (s : State) : SameHeads t s (s.closed t) := by
  unfold State.closed SameHeads
  dsimp only
  split_ifs <;> simp only [(leaveDrain_heads _ _).1, (leaveDrain_heads _ _).2.1, (leaveDrain_heads _ _).2.2.1,
    leaveDrain_contexts, true_and]
  · exact fun i hi => set_get_ne _ _ hi.symm
  · exact fun i hi => set_get_ne _ _ hi.symm
  · exact fun i hi => set_get_ne _ _ hi.symm
  · exact fun _ _ => trivial

/-- The front queue after the ending of a transfer: its sector at the head is gone (R79). -/
theorem cleared_fiq (t : Tag) (e : Ending) (fail : Option Nat) (s : State) :
    (s.cleared t e fail).fiq =
      if ∃ q ∈ s.fiq.head?, q.frame.header.kind.toNat = 2 ∧ frameTag q.frame = t then s.fiq.tail else s.fiq := by
  unfold State.cleared
  dsimp only
  rw [(closed_heads _ _).1, (unread_heads _ _).1]
  split_ifs <;> rfl

/-- The media queue after the ending of a transfer: its judged frame is gone (R79). -/
theorem cleared_miq (t : Tag) (e : Ending) (fail : Option Nat) (s : State) :
    (s.cleared t e fail).miq =
      if s.verdict.isSome = true ∧ ∃ q ∈ s.miq.head?, frameTag q.frame = t then s.miq.tail else s.miq := by
  unfold State.cleared
  dsimp only
  rw [(closed_heads _ _).2.1, (unread_heads _ _).2.1]
  split_ifs <;> rfl

/-- The ending of a transfer leaves the other contexts. -/
theorem cleared_elsewhere (t : Tag) (e : Ending) (fail : Option Nat) (s : State) {i : Tag} (hi : i ≠ t) :
    (s.cleared t e fail).contexts[i] = s.contexts[i] := by
  unfold State.cleared
  dsimp only
  rw [(closed_heads _ _).2.2.2 i hi, (unread_heads _ _).2.2.2 i hi]
  split_ifs <;> exact set_get_ne _ _ hi.symm

/-- The ending of a transfer lengthens no intake queue. -/
theorem endTransfer_fiq (t : Tag) (e : Ending) (fail : Option Nat) (s : State) :
    (endTransfer t e fail s).fiq.length ≤ s.fiq.length := by
  by_cases h : s.contexts[t].state.running = true
  · rw [endTransfer_cleared h, cleared_fiq]
    split_ifs
    · simp
    · exact le_refl _
  · rw [endTransfer_elsewhere (by simpa using h)]

/-! ### One turn of the front head -/

/-- A frame at the front head that is no candidate leaves the queue (R65 to R70). -/
theorem disposeFront_shorter {q : Queued} {qs : List Queued} {s : State} (h : s.fiq = q :: qs) :
    (disposeFront q s).fiq.length < s.fiq.length := by
  have hp : (popIntake .front s).fiq.length < s.fiq.length := by
    rw [popIntake_eq]
    show s.fiq.tail.length < _
    rw [h]
    simp
  unfold disposeFront
  dsimp only
  split_ifs
  · unfold takeOpen
    split
    · exact hp
    · unfold enterReporting
      rw [(leaveDrain_heads _ _).1]
      exact hp
  · exact lt_of_le_of_lt (endTransfer_fiq _ _ _ _) hp
  · split <;> try exact hp
    split
    · exact lt_of_le_of_lt (endTransfer_fiq _ _ _ _) hp
    · exact hp

/-- More turns than frames change nothing. -/
theorem frontHead_depth {n : Nat} : ∀ {m : Nat} {s : State}, s.fiq.length ≤ n → s.fiq.length ≤ m →
    frontHead n s = frontHead m s := by
  have empty (k : Nat) {s : State} (h : s.fiq = []) : frontHead k s = s := frontHead_rest (by simp [h])
  induction n with
  | zero =>
    intro m s h _
    rw [empty 0 (List.length_eq_zero_iff.mp (Nat.le_zero.mp h)), empty m (List.length_eq_zero_iff.mp (Nat.le_zero.mp h))]
  | succ n ih =>
    intro m s hn hm
    cases hq : s.fiq with
    | nil => rw [empty _ hq, empty _ hq]
    | cons q qs =>
      have hs := disposeFront_shorter hq
      cases m with
      | zero => rw [hq] at hm; simp at hm
      | succ m =>
        unfold frontHead
        rw [hq]
        dsimp only
        split_ifs
        · rfl
        · exact ih (by omega) (by omega)

/-- One turn of the front head: the heads go on from the state in which its frame, which is no candidate, is disposed of. -/
theorem heads_turn_front {q : Queued} {s : State} (h : s.fiq.head? = some q) (hc : frontCandidate q s = false) :
    heads s = heads (disposeFront q s) := by
  obtain ⟨qs, hq⟩ : ∃ qs, s.fiq = q :: qs := by
    cases hs : s.fiq with
    | nil => rw [hs] at h; simp at h
    | cons a as => rw [hs] at h; simp at h; exact ⟨as, by rw [h]⟩
  have hs := disposeFront_shorter hq
  have turn : frontHead s.fiq.length s = frontHead (disposeFront q s).fiq.length (disposeFront q s) := by
    rw [hq, List.length_cons] at hs ⊢
    rw [frontHead, hq]
    dsimp only
    rw [if_neg (by simp [hc])]
    exact frontHead_depth (by omega) (le_refl _)
  unfold heads
  rw [turn]

/-! ### One turn of the media head -/

/-- A bypass sector takes its frame out of the media queue and changes no other context (R74, R75, R132). -/
theorem takeBypass_heads (q : Queued) (r : ReadStatus) (s : State) :
    SameHeads (frameTag q.frame) (popIntake .media s) (takeBypass q r s) := by
  have finish (t : Tag) (x : State) : SameHeads t x (finishTransfer t x) := by
    unfold finishTransfer
    split_ifs
    · obtain ⟨a, b, c, d⟩ := leaveDrain_heads t
        { putContext t { x.contexts[t] with state := .reporting, ending := some .done, deadline := none } x with
          rpq := x.rpq ++ [completionFrame t
            { x.contexts[t] with state := .reporting, ending := some .done, deadline := none }] }
      unfold enterReporting
      simp only [putContext, set_get_self, set_set_self]
      exact ⟨a, b, c, fun i hi => (d i hi).trans (set_get_ne _ _ hi.symm)⟩
    · exact ⟨rfl, rfl, rfl, fun _ _ => rfl⟩
  obtain ⟨a, b, c, d⟩ := finish (frameTag q.frame)
    (deliver (frameTag q.frame) r
      (readFrame (frameTag q.frame) (popIntake .media s).contexts[frameTag q.frame] (frameIndex q.frame) r
        (zeroBytes (sectorLength (popIntake .media s).contexts[frameTag q.frame].format)))
      (putContext (frameTag q.frame)
        ((popIntake .media s).contexts[frameTag q.frame].take (idleDeadline (popIntake .media s)) (frameIndex q.frame) 0)
        (popIntake .media s)))
  have hd (t : Tag) (f : Frame) (x : State) : SameHeads t x (deliver t r f x) := by
    rw [deliver_eq]
    unfold State.delivered
    dsimp only
    split_ifs <;> exact ⟨rfl, rfl, rfl, fun i hi => set_get_ne _ _ hi.symm⟩
  refine ⟨a.trans (hd _ _ _).1, b.trans (hd _ _ _).2.1, c.trans (hd _ _ _).2.2.1, fun i hi => ?_⟩
  exact (d i hi).trans (((hd _ _ _).2.2.2 i hi).trans (set_get_ne _ _ hi.symm))

/-- A frame at the media head that is not judged yet leaves the queue or is judged there, and no other context but its own
changes (R73). -/
theorem disposeMedia_turn {q : Queued} {qs : List Queued} {s : State} (h : s.miq = q :: qs)
    (hf : ∀ x ∈ s.fiq.head?, frontCandidate x s = true) :
    ((disposeMedia q s).verdict.isSome = true ∨ (disposeMedia q s).miq.length < s.miq.length) ∧
      ∀ x ∈ (disposeMedia q s).fiq.head?, frontCandidate x (disposeMedia q s) = true := by
  have hp : (popIntake .media s).miq.length < s.miq.length := by
    rw [popIntake_eq]
    show s.miq.tail.length < _
    rw [h]
    simp
  have hpf : ∀ x ∈ (popIntake .media s).fiq.head?, frontCandidate x (popIntake .media s) = true := hf
  unfold disposeMedia
  dsimp only
  split <;> try exact ⟨Or.inr hp, hpf⟩
  rename_i hstate hdir
  have other : ∀ x ∈ s.fiq.head?, frameTag x.frame ≠ frameTag q.frame := by
    intro x hx ht
    have hc := hf x hx
    have hx' : s.contexts[frameTag x.frame] = s.contexts[frameTag q.frame] := by simp only [ht]
    unfold frontCandidate at hc
    rw [hx'] at hc
    simp [-Fin.getElem_fin, hdir] at hc
  split_ifs
  · exact ⟨Or.inr hp, hpf⟩
  · exact ⟨Or.inr hp, hpf⟩
  · rw [endTransfer_cleared (by show s.contexts[frameTag q.frame].state.running = true; rw [hstate]; rfl)]
    have hfiq : ((popIntake .media s).cleared (frameTag q.frame) .damaged (some (frameIndex q.frame))).fiq = s.fiq := by
      rw [cleared_fiq]
      exact if_neg (by rintro ⟨x, hx, _, ht⟩; exact other x hx ht)
    refine ⟨Or.inr ?_, fun x hx => ?_⟩
    · rw [cleared_miq, if_neg (by rintro ⟨hs, _⟩; simp [popIntake_eq, State.beheaded, State.testedAt, putPort] at hs)]
      exact hp
    · rw [hfiq] at hx
      rw [← hf x hx]
      exact frontCandidate_congr (cleared_elsewhere _ _ _ _ (other x hx))
  · unfold judgeHead
    dsimp only
    split
    · exact ⟨Or.inl rfl, hf⟩
    split_ifs
    · rename_i r _ _
      have hs := takeBypass_heads q r s
      exact ⟨Or.inr (by rw [hs.2.1]; exact hp), fun x hx => by
        rw [hs.1] at hx
        rw [← hf x hx]
        exact frontCandidate_congr (hs.2.2.2 _ (other x hx))⟩
    · exact ⟨Or.inl rfl, hf⟩

/-- More turns than frames change nothing. -/
theorem mediaHead_depth {n : Nat} : ∀ {m : Nat} {s : State}, s.miq.length ≤ n → s.miq.length ≤ m →
    (∀ x ∈ s.fiq.head?, frontCandidate x s = true) → mediaHead n s = mediaHead m s := by
  have empty (k : Nat) {s : State} (h : s.miq.length ≤ 0) : mediaHead k s = s :=
    mediaHead_rest (Or.inl (List.length_eq_zero_iff.mp (Nat.le_zero.mp h)))
  induction n with
  | zero => intro m s h _ _; rw [empty 0 h, empty m h]
  | succ n ih =>
    intro m s hn hm hf
    cases hv : s.verdict with
    | some v => rw [mediaHead_rest (Or.inr (by simp [hv])), mediaHead_rest (Or.inr (by simp [hv]))]
    | none =>
      cases hq : s.miq with
      | nil => rw [empty _ (by simp [hq]), empty _ (by simp [hq])]
      | cons q qs =>
        have ht := disposeMedia_turn hq hf
        cases m with
        | zero => rw [hq] at hm; simp at hm
        | succ m =>
          unfold mediaHead
          rw [hv, hq]
          dsimp only [Option.isSome_none]
          rw [if_neg (by simp), if_neg (by simp)]
          rcases ht.1 with hj | hj
          · rw [mediaHead_rest (Or.inr hj), mediaHead_rest (Or.inr hj)]
          · exact ih (by omega) (by omega) ht.2

/-- One turn of the media head: with the front head at rest, the heads go on from the state in which its frame is disposed of
or judged. -/
theorem heads_turn_media {q : Queued} {s : State} (h : s.miq.head? = some q) (hv : s.verdict = none)
    (hf : ∀ x ∈ s.fiq.head?, frontCandidate x s = true) : heads s = heads (disposeMedia q s) := by
  obtain ⟨qs, hq⟩ : ∃ qs, s.miq = q :: qs := by
    cases hs : s.miq with
    | nil => rw [hs] at h; simp at h
    | cons a as => rw [hs] at h; simp at h; exact ⟨as, by rw [h]⟩
  have ht := disposeMedia_turn hq hf
  unfold heads
  rw [frontHead_rest hf, frontHead_rest ht.2]
  dsimp only
  rw [hq, List.length_cons, mediaHead, hv, hq]
  dsimp only [Option.isSome_none]
  rw [if_neg (by simp)]
  rcases ht.1 with hj | hj
  · rw [mediaHead_rest (Or.inr hj), mediaHead_rest (Or.inr hj)]
  · rw [hq, List.length_cons] at hj
    exact mediaHead_depth (by omega) (le_refl _) ht.2

end Sys2Proof.Machine
end

