-- ==== Sys2Proof/WellFormed.lean ====
section
/-! DEFINITION. The checks that make a command well formed. -/

namespace Sys2Proof

/-- A link delivers a frame whole: its payload has the length its header states (R87, R158). -/
def Frame.whole (f : Frame) : Bool :=
  f.payload.length == f.header.length.toNat

/-- A command is well formed when the frame it carries, if any, is whole. Every other operand is bounded by its type. -/
def Instr.wellFormed : Instr → Bool
  | .frameArrival _ f => f.whole
  | .powerOn | .powerOnResetAsserted | .frontLinkDown | .frontLinkUp | .mediaLinkDown | .mediaLinkUp
  | .holdArrival _ | .goArrival _ | .laneJobStart | .laneJobCompletion _ | .handOff _ | .bypassOffer
  | .frontFrameSent | .mediaFrameSent | .flowFrameSent _ | .idleDeadlineExpiry _ | .drainTimerExpiry
  | .autoLockExpiry | .startUpTestComplete _ | .runningTestFailure | .fillEnd _ _ _ _ | .wrappedRecordMade
  | .recordOpeningEnd | .defineRange | .disableRange | .setLocks | .setWrappingKey | .clearWrappingKey
  | .generateKey | .installKey | .rekeySlot | .discardKey | .abandonTransfer | .setLimits | .queryEngine
  | .queryRange | .querySlot | .queryContext | .queryLimits | .clearEvents | .resetEngine
  | .unknownDirective => true

end Sys2Proof
end

