-- ==== Sys2Proof/Tests/Slice0.lean ====
section
/-! SUPPORT. Tests on small states: the manual's worked figures, one or two facts for each command, and, for each statement with
hypotheses, a state and operands that meet them. Expected results come from the manual or from hand calculation by its
rules; the source stands with each test. -/

open Sys2Proof Sys2Proof.Machine

namespace Sys2Proof.Tests

set_option Elab.async false

/-! ### Helpers -/

/-- A frame whose header and payload checks pass. -/
def shaped (kind tag index form : Byte) (lba count : Nat) (p : Bytes) : Frame :=
  buildFrame kind tag index form lba (count - 1) p

/-- The same frame with a payload check that fails. -/
def broken (f : Frame) : Frame := { f with check := f.check ^^^ 1#32 }

/-- An OPEN: the form byte 80h is a READ of format 0, 00h a WRITE. -/
def openFrame (tag form : Byte) (start count : Nat) : Frame := shaped 1 tag 0 form start count []

/-- A write SECTOR of format 0, all its bytes zero. -/
def writeSector (tag index : Byte) (lba : Nat) : Frame := shaped 2 tag index 0 lba 1 (List.replicate 512 0)

/-- A media SECTOR of format 0; its trailer holds zeros: generation 0, range 0, format byte 0. -/
def readSector (tag index : Byte) (lba : Nat) : Frame := shaped 2 tag index 0 lba 1 (List.replicate 520 0)

/-- A VOID frame. -/
def voidFrame (tag index : Byte) (lba : Nat) : Frame := shaped 7 tag index 0 lba 1 []

/-- A DIRECTIVE with request id 7. -/
def directive (p : Bytes) : Frame := shaped 3 7 0 0 0 1 p

/-- An entry that waits to be executed. -/
def entry (p : Bytes) : DrqEntry := { frame := directive p, damaged := false, executed := false }

/-- Both links UP, nothing else since power-on. -/
def linked : State :=
  { State.reset with front := { Port.reset with link := .up }, media := { Port.reset with link := .up } }

/-- Slots 0 and 1 READY, entry 0 filled, the source READY; range 0 names slot 0, range 1 is 10 to 19 and names slot 1. -/
def keyed : State :=
  { linked with
    slots := (linked.slots.set 0 { SlotRecord.reset with state := .ready, dataKey := 1, tweakKey := 2 }).set 1
      { SlotRecord.reset with state := .ready, dataKey := 3, tweakKey := 4, generation := 3 },
    wrapping := linked.wrapping.set 0 (some { halfA := 5, halfB := 6 }), random := .ready,
    ranges := (linked.ranges.set 0 { RangeRecord.global with slot := some 0 }).set 1
      { RangeRecord.disabled with enabled := true, start := 10, length := 10, slot := some 1, linkLock := true } }

/-- The state with one directive that waits to be executed. -/
def asked (p : Bytes) (s : State) : State := { s with drq := [entry p] }

/-- An ACTIVE transfer of format 0. -/
def transfer (d : Direction) (start count : Nat) : Context :=
  { Context.free with state := .active, direction := d, start := start, count := count, deadline := some 1000000#64 }

/-- The state with a transfer at a tag. -/
def moving (t : Tag) (c : Context) (s : State) : State := { s with contexts := s.contexts.set t c }

/-- The state in which a directive runs for its entry, or runs on in silence after a front link loss. -/
def doing (task : Task) (s : State) (silent : Bool := false) : State :=
  { s with drq := [entry [6]], du := some ⟨task, silent⟩ }

/-- The state after a command that answers a next state. -/
def after (c : Instr) (s : State) : State := match exec c s with | .next t => t | _ => s

/-- A job of a transfer. -/
def job (t : Tag) (sector : SectorBytes) : Job :=
  { tag := t, index := 0, slot := 0, inputs := inputSet 5 0 keyed.ranges[0] keyed.slots[0] 0, sector := sector }

/-- A write job and a read job. -/
def writeJob (t : Tag) : Job := job t (.plain [])
def readJob (t : Tag) : Job := job t (.ciphered [] [] ⟨0, 0, 0, 0⟩)

/-- A transfer with one job in flight on lane 2, which may hold its output. -/
def working (c : Context) (x : Lane) : State :=
  { moving 9 { c with taken := 1, jobs := 1 } keyed with
    lanes := keyed.lanes.set 2 x, slots := keyed.slots.set 0 { keyed.slots[0] with pins := 1 } }

/-- Sixteen frames. -/
def sixteen : List Frame := List.replicate 16 (flowFrame .hold)

/-! ### WellFormed -/

/-- A frame whose payload is shorter than its header says is ill-formed as an operand, and a whole one well-formed (R158). -/
theorem test_wellFormed_refuses_length :
    Instr.wellFormed (.frameArrival .front { directive [3, 0, 1] with payload := [3, 0] }) = false ∧
      Instr.wellFormed (.frameArrival .front (directive [3, 0, 1])) = true := by decide +kernel

/-! ### Figures of the manual: checks, seeds, doubling -/

/-- Table 1-9. -/
theorem test_check32_nine_bytes :
    check32 [0x31, 0x32, 0x33, 0x34, 0x35, 0x36, 0x37, 0x38, 0x39] = 0xE3069283#32 := by decide +kernel

/-- Table 1-9. -/
theorem test_check32_zeros : check32 (List.replicate 32 0) = 0x8A9136AA#32 := by decide +kernel

/-- Section 11.2. -/
theorem test_check16_nine_bytes : check16 [0x31, 0x32, 0x33, 0x34, 0x35, 0x36, 0x37, 0x38, 0x39] = 0x29B1#16 := by
  decide +kernel

/-- Section 11.2: the payload check of an empty payload. -/
theorem test_check32_empty : check32 [] = 0#32 := by decide +kernel

/-- Range 2 of Example 1 of section 1.4. -/
def exampleRange : RangeRecord :=
  { RangeRecord.disabled with enabled := true, start := 1000000, length := 1000, metaCipher := true, tweakBase := 5000 }

/-- The seed of a sector in a range whose slot has a generation. -/
def exampleSeed (lba : Nat) (r : RangeIx) (range : RangeRecord) (g : Generation) (f : FormatCode) : Bytes :=
  seedBytes (inputSet lba r range { SlotRecord.reset with generation := g } f)

/-- Example 1. -/
theorem test_seed_example_1 :
    exampleSeed 1000010 2 exampleRange 3 1 = [0x92, 0x13, 0, 0, 0, 0, 0, 0, 3, 0, 2, 5, 0, 0, 0, 0] := by decide +kernel

/-- Examples 2 and 3: META_CIPHER clear, and format 0, clamp m to 0. -/
theorem test_seed_examples_2_3 :
    byteAt (exampleSeed 1000010 2 { exampleRange with metaCipher := false } 3 1) 11 = 1 ∧
      byteAt (exampleSeed 1000010 2 exampleRange 3 0) 11 = 0 ∧ cipheredLength true 0 = 512 := by decide +kernel

/-- Example 4. -/
theorem test_seed_example_4 :
    exampleSeed 4096 0 RangeRecord.global 0 2 = [0, 0x10, 0, 0, 0, 0, 0, 0, 0, 0, 0, 2, 0, 0, 0, 0] := by decide +kernel

/-- Examples 5 and 6: the offset wraps modulo 2^64. -/
theorem test_seed_examples_5_6 :
    (exampleSeed 1000005 2 { exampleRange with tweakBase := 0xFFFFFFFFFFFFFFFD#64 } 0 0).take 8 =
        [2, 0, 0, 0, 0, 0, 0, 0] ∧
      (exampleSeed 1000000 2 { exampleRange with tweakBase := 0xFFFFFFFFFFFFFFFF#64 } 0 0).take 8 =
        List.replicate 8 0xFF ∧
      (exampleSeed 1000001 2 { exampleRange with tweakBase := 0xFFFFFFFFFFFFFFFF#64 } 0 0).take 8 =
        List.replicate 8 0 := by decide +kernel

/-- Example 7: three doublings. -/
theorem test_double_example_7 :
    double (BitVec.ofNat 128 (2 ^ 127 + 1)) = 0x85#128 ∧ double 0x85#128 = 0x10A#128 ∧ double 0x10A#128 = 0x214#128 := by
  decide +kernel

/-- Examples 8 and 9. -/
theorem test_double_examples_8_9 :
    bytesOfBlock (double 0x80#128) = [0, 1] ++ List.replicate 14 0 ∧
      bytesOfBlock (double (BitVec.allOnes 128)) = 0x79 :: List.replicate 15 0xFF := by decide +kernel

/-- Table 1-10: the metadata bytes that the masks 05h and 81h select. -/
theorem test_selected_metadata :
    selectedMeta 0x05 [10, 11, 12, 13, 14, 15, 16, 17] = [10, 12] ∧
      selectedMeta 0x81 [10, 11, 12, 13, 14, 15, 16, 17] = [10, 17] := by decide +kernel

/-- R18: one nonzero metadata byte fails the zero test. -/
theorem test_zeroTest : zeroTest (List.replicate 520 0) = true ∧ zeroTest (List.replicate 519 0 ++ [1]) = false := by
  decide +kernel

/-! ### Figures of the manual: ranges, marks, frames -/

/-- The Range Table of Table 2-2. -/
def table22 : Vector RangeRecord 16 :=
  let r (a n : Nat) : RangeRecord := { RangeRecord.disabled with enabled := true, start := a, length := n }
  ((resetRanges.set 1 (r 100 100)).set 2 (r 200 100)).set 3 (r 400 100)

/-- Table 2-2, all rows. -/
theorem test_touched_table_2_2 :
    touched table22 120 10 = [1] ∧ touched table22 195 10 = [1, 2] ∧ touched table22 290 20 = [2, 0] ∧
      touched table22 90 256 = [0, 1, 2] ∧ touched table22 300 256 = [0, 3] ∧ touched table22 500 8 = [0] := by
  decide +kernel

/-- Section 2.2: extents that only adjoin do not meet. -/
theorem test_extents_adjoin : extentsMeet 400 500 500 600 = false ∧ extentsMeet 400 501 500 600 = true := by decide

/-- Table 5-3, all rows. -/
theorem test_clamping_table_5_3 :
    [(12, 4), (0, 0), (1, 5), (20, 16), (8, 8), (16, 0)].map (fun p => (clampHigh p.1, clampLow (clampHigh p.1) p.2)) =
      [(12, 4), (1, 0), (1, 0), (16, 15), (8, 7), (16, 0)] := by decide +kernel

/-- Table 10-2: the spans in microseconds. -/
theorem test_autoLockSpan_table_10_2 :
    [0, 1, 2, 3, 7].map autoLockSpan = [none, some 500000, some 1000000, some 2000000, some 32000000] := by decide +kernel

/-- Section 11.7: the COMPLETION of tag 21, byte for byte but for its two checks. -/
theorem test_completion_section_11_7 :
    let c : Context :=
      { Context.free with
        state := .reporting, direction := .read, start := 3000, count := 4, finished := 4, ending := some .done,
        counts := { stale := 1, checkFail := 0, zero := 1, void := 0, mismatch := 0 } }
    let bs := frameBytes (completionFrame 21 c)
    bs.length = 34 ∧
      bs.take 14 = [0x04, 0x15, 0x00, 0x80, 0xB8, 0x0B, 0, 0, 0, 0x03, 0x0E, 0, 0, 0] ∧
      slice bs 16 14 = [4, 0, 0, 0, 1, 0, 0, 0, 1, 0, 0, 0, 0, 0] := by decide +kernel

/-- Table 4-7: a DAMAGED read at index 6 carries its first failing index. -/
theorem test_completion_first_failing_index :
    (completionPayload { Context.free with direction := .read, finished := 5, firstFail := some 6 }).take 4 =
      [5, 0, 1, 6] := by decide +kernel

/-! ### Links, power, frames -/

/-- R156: power-on from any state. -/
theorem test_powerOn : after .powerOn { keyed with inReset := true } = State.reset := by decide +kernel

/-- R156: while the input is asserted nothing is received. -/
theorem test_powerOnResetAsserted :
    (after (.frameArrival .front (directive [3, 0, 1])) (after .powerOnResetAsserted keyed)).drq = [] := by decide +kernel

/-- R153: the timer stops. -/
theorem test_frontLinkUp : (after .frontLinkUp { State.reset with autoLock := some 9 }).autoLock = none := by
  decide +kernel

/-- R152, R155: the timer starts with the span of selector 3, 2 s. -/
theorem test_frontLinkDown :
    (after .frontLinkDown { keyed with time := 100, limits := { Limits.reset with selector := 3 } }).autoLock =
      some 2000100#64 := by decide +kernel

/-- A VOID frame has reached the media head for a transfer whose context ends with the front link, and one stands behind. -/
def losing : State :=
  { moving 3 (transfer .read 5 4) keyed with
    miq := [{ frame := voidFrame 3 1 6, damaged := false }, { frame := voidFrame 3 2 7, damaged := false }],
    verdict := some .void, events := { flags := 0, mask := 0x7FFF, attention := false } }

/-- R152: no flag is set and ATTENTION stays low, although the frame behind the discarded one is an orphan of a FREE context;
it is so at the next event, and ORPHAN_SECTOR is bit 6. -/
theorem test_frontLinkDown_keeps_the_flags :
    let t := after .frontLinkDown losing
    (t.events = losing.events ∧ t.miq.length = 1) ∧
      (after (.holdArrival .media) t).events.flags = 0x40#15 ∧ (after (.holdArrival .media) t).miq = [] := by
  decide +kernel

/-- R154: the port comes UP and the transmitter begins on the MOQ (R97). -/
theorem test_mediaLinkUp :
    (after .mediaLinkUp { State.reset with moq := [flowFrame .go] }).media.sending = some .moq := by decide +kernel

/-- R85: an ACTIVE transfer ends MEDIA_LOST. -/
theorem test_mediaLinkDown :
    (after .mediaLinkDown (moving 4 (transfer .read 0 2) keyed)).contexts[(4 : Tag)].ending = some .mediaLost := by
  decide +kernel

/-- R79, R154: of the FIQ only the sector that waited at the head leaves, and no flag is set. -/
theorem test_mediaLinkDown_takes_the_waiting_sector :
    let q : Queued := { frame := writeSector 2 0 5, damaged := false }
    let s : State := { moving 2 (transfer .write 5 2) keyed with fiq := [q, q] }
    (after .mediaLinkDown s).fiq.length = 1 ∧ (after .mediaLinkDown s).events = s.events := by decide +kernel

/-- Event 4 of section 10.8: an OPEN before any key is refused NO_KEY, and its COMPLETION goes out at once. -/
theorem test_frameArrival_early_open :
    let t := after (.frameArrival .front (openFrame 0 0 100 1)) linked
    t.contexts[(0 : Tag)].ending = some .noKey ∧ t.front.sending = some .rpq := by decide +kernel

/-- Event 11 of section 10.8: the retried OPEN is taken. -/
theorem test_frameArrival_open_taken :
    (after (.frameArrival .front (openFrame 0 0 100 1)) keyed).contexts[(0 : Tag)].state = .active := by decide +kernel

/-- R95: a HOLD sets the peer hold, and no queued frame goes (R96). -/
theorem test_holdArrival :
    (after (.holdArrival .front) keyed).front.peerHold = true := by decide +kernel

/-- R95, R96: a GO clears it, and the transmitter begins. -/
theorem test_goArrival :
    (after (.goArrival .front) { keyed with front := { keyed.front with peerHold := true }, fsq := [flowFrame .go] }).front.sending =
      some .fsq := by decide +kernel

/-- R97: the MOQ head leaves. -/
theorem test_mediaFrameSent :
    (after .mediaFrameSent
      { keyed with moq := [flowFrame .go], media := { keyed.media with sending := some .moq } }).moq = [] := by decide +kernel

/-- R91, R96: a RESPONSE leaves and frees its entry. -/
theorem test_frontFrameSent :
    (after .frontFrameSent
      { keyed with
        rpq := [responseFrame (directive [5, 0]) .ok []], drq := [{ entry [5, 0] with executed := true }],
        front := { keyed.front with sending := some .rpq } }).drq = [] := by decide +kernel

/-- R93: a GO that has been sent is no longer pending. -/
theorem test_flowFrameSent :
    (after (.flowFrameSent .media)
      { keyed with
        media :=
          { keyed.media with pendingFlow := some .go, told := some .go, sending := some (.flow .go) } }).media.pendingFlow =
      none := by decide +kernel

/-! ### Lanes -/

/-- A write sector waits at the front head. -/
def waiting : State :=
  { moving 2 (transfer .write 5 1) keyed with fiq := [{ frame := writeSector 2 0 5, damaged := false }] }

/-- R102, R103: lane 0 takes the candidate, slot 0 is pinned, and the pointer names the media side. -/
theorem test_laneJobStart :
    let t := after .laneJobStart waiting
    (t.slots[0].pins = 1 ∧ t.laneTurn = .media) ∧ t.contexts[(2 : Tag)].state = .flushing := by decide +kernel

/-- R107: with a full MOQ the output is held. -/
theorem test_laneJobCompletion :
    (after (.laneJobCompletion 2) { working (transfer .write 5 2) (.running (writeJob 9)) with moq := sixteen }).moqHold =
      [2] := by decide +kernel

/-- R110, R108: the held output enters the MOQ, and the pin is gone. -/
theorem test_handOff :
    let t := after (.handOff .moq)
      { working (transfer .write 5 2) (.holding (writeJob 9) (flowFrame .go) .moq) with moqHold := [2] }
    t.moq = [flowFrame .go] ∧ t.slots[0].pins = 0 := by decide +kernel

/-- A VOID frame waits at the media head. -/
def bypassing : State :=
  { moving 3 (transfer .read 5 2) keyed with
    miq := [{ frame := voidFrame 3 1 6, damaged := false }], verdict := some .void }

/-- R133, R75: the waiting bypass enters the FSQ and is counted. -/
theorem test_bypassOffer :
    let t := after .bypassOffer bypassing
    t.contexts[(3 : Tag)].counts.void = 1 ∧ t.contexts[(3 : Tag)].finished = 1 := by decide +kernel

/-! ### Timers and the Random Source -/

/-- R76. -/
theorem test_idleDeadlineExpiry :
    (after (.idleDeadlineExpiry 4) (moving 4 (transfer .read 0 2) keyed)).contexts[(4 : Tag)].ending = some .timeout := by
  decide +kernel

/-- A drain in WAIT mode over a transfer with a job in flight. -/
def drainingState : State :=
  let s := working (transfer .write 5 2) (.running (writeJob 9))
  { s with
    slots := s.slots.set 0 { s.slots[0] with state := .draining, drainSet := [9] }, drq := [entry [9, 0, 0]],
    du := some ⟨.draining 0 .discard (some 5000#64), false⟩ }

/-- R57: DRAIN_CUT (bit 11) is set and the transfer ends ERASED. -/
theorem test_drainTimerExpiry :
    let t := after .drainTimerExpiry drainingState
    t.events.flags.getLsbD 11 = true ∧ t.contexts[(9 : Tag)].ending = some .erased := by decide +kernel

/-- R35, R155: the marked range 1 is locked, range 0 is not, and the wrapping entries are EMPTY. -/
theorem test_autoLockExpiry :
    let t := after .autoLockExpiry { keyed with autoLock := some 7 }
    (t.ranges[1].readLock = true ∧ t.ranges[0].readLock = false) ∧ t.wrapping[0] = none := by decide +kernel

/-- R47: a failed start-up test sets RANDOM_FAIL (bit 12). -/
theorem test_startUpTestComplete :
    let t := after (.startUpTestComplete false) linked
    t.random = .failed ∧ t.events.flags.getLsbD 12 = true := by decide +kernel

/-- R48: a failing running test empties the slot that is being filled. -/
theorem test_runningTestFailure :
    let s := doing (.filling 2 0 1) keyed
    (after .runningTestFailure { s with slots := s.slots.set 2 { s.slots[2] with state := .filling } }).slots[2].state =
      .empty := by decide +kernel

/-- R53: the slot is READY with the named generation. -/
theorem test_fillEnd :
    (after (.fillEnd 7 8 9 true) (doing (.filling 2 0 1) keyed)).slots[2].state = .ready ∧
      (after (.fillEnd 7 8 9 true) (doing (.filling 2 0 1) keyed)).slots[2].generation = 1 := by decide +kernel

/-- R53: with the entry EMPTY the slot becomes EMPTY. -/
theorem test_wrappedRecordMade :
    (after .wrappedRecordMade (doing (.wrapping 2 1 1 7 8 9) keyed)).slots[2].state = .empty ∧
      (after .wrappedRecordMade (doing (.wrapping 2 0 1 7 8 9) keyed)).slots[2].state = .ready := by decide +kernel

/-- R54: with the entry EMPTY by then, the slot becomes EMPTY. -/
theorem test_recordOpeningEnd :
    (after .recordOpeningEnd (doing (.opening 2 1 []) keyed)).slots[2].state = .empty := by decide +kernel

/-! ### Directives -/

/-- The result code of the response that a directive brings (Table 11-7). -/
def resultOf (c : Instr) (p : Bytes) (s : State) : Nat :=
  ((after c (asked p s)).rpq.map (fun f => f.header.index.toNat)).getLastD 99

/-- The data of the response that a directive brings, its code first (R161). -/
def dataOf (c : Instr) (p : Bytes) (s : State) : Bytes := ((after c (asked p s)).rpq.map (fun f => f.payload)).getLastD []

/-- A DEFINE RANGE payload. -/
def defining (k slot attributes : Byte) (start length : Nat) : Bytes :=
  [1, k, slot, attributes, 0] ++ leBytes 5 start ++ leBytes 6 length ++ leBytes 8 0

/-- R29: a range from 15 meets range 1 (OVERLAP is 4), one from 20 adjoins it. -/
theorem test_defineRange :
    resultOf .defineRange (defining 2 0 0 15 10) keyed = 4 ∧ resultOf .defineRange (defining 2 0 0 20 10) keyed = 0 := by
  decide +kernel

/-- R32: range 0 cannot be disabled (BAD_PARAM is 1). -/
theorem test_disableRange :
    resultOf .disableRange [2, 0] keyed = 1 ∧ (after .disableRange (asked [2, 1] keyed)).ranges[1].enabled = false := by
  decide +kernel

/-- R33: a lock is set while a transfer is open. -/
theorem test_setLocks :
    (after .setLocks (asked [3, 0, 2] (moving 4 (transfer .read 0 2) keyed))).ranges[0].writeLock = true := by decide +kernel

/-- R44: half A is the first 32 of the 64 bytes. -/
theorem test_setWrappingKey :
    (after .setWrappingKey (asked ([4, 3] ++ 5 :: List.replicate 63 0) keyed)).wrapping[3] =
      some { halfA := 5, halfB := 0 } := by decide +kernel

/-- R45. -/
theorem test_clearWrappingKey : (after .clearWrappingKey (asked [5, 0] keyed)).wrapping[0] = none := by decide +kernel

/-- R53: a READY slot is refused (SLOT_STATE is 7), an EMPTY one begins to fill. -/
theorem test_generateKey :
    resultOf .generateKey [6, 0, 0, 9, 0] keyed = 7 ∧
      (after .generateKey (asked [6, 2, 0, 9, 0] keyed)).slots[2].state = .filling := by decide +kernel

/-- R54: a record of another version is refused (BAD_BLOB is 12). -/
theorem test_installKey : resultOf .installKey ([7, 2, 0, 2] ++ List.replicate 95 0) keyed = 12 := by decide +kernel

/-- R55: the generation that the slot has is refused (SAME_GENERATION is 8), another begins the fill at once. -/
theorem test_rekeySlot :
    resultOf .rekeySlot [8, 1, 0, 3, 0, 0] keyed = 8 ∧
      (after .rekeySlot (asked [8, 1, 0, 4, 0, 0] keyed)).slots[1].state = .filling := by decide +kernel

/-- R59: an unused slot is emptied at once, its generation kept. -/
theorem test_discardKey :
    let t := after .discardKey (asked [9, 1, 0] keyed)
    t.slots[1].state = .empty ∧ t.slots[1].generation = 3 := by decide +kernel

/-- R77: a FREE tag is NOT_OPEN (14), an ACTIVE transfer ends ABANDONED. -/
theorem test_abandonTransfer :
    resultOf .abandonTransfer [10, 4] keyed = 14 ∧
      (after .abandonTransfer (asked [10, 4] (moving 4 (transfer .read 0 2) keyed))).contexts[(4 : Tag)].ending =
        some .abandoned := by decide +kernel

/-- Section 10.8, event 6: the directive's limits are stored and answered. -/
theorem test_setLimits :
    dataOf .setLimits
        ([11] ++ leBytes 6 1000000 ++ [12, 4, 12, 4] ++ leBytes 2 10000 ++ leBytes 2 5000 ++ [3] ++ leBytes 2 0x7FFF) keyed =
      [11] ++ leBytes 6 1000000 ++ [12, 4, 12, 4] ++ leBytes 2 10000 ++ leBytes 2 5000 ++ [3] ++ leBytes 2 0x7FFF := by
  decide +kernel

/-- Table 11-8: both links UP, the source READY (1), one DRQ entry, POWER_ON set, ATTENTION asserted, the mask all set. -/
theorem test_queryEngine :
    dataOf .queryEngine [12, 0, 0] keyed = [12, 0, 1, 1, 1, 0, 0, 1, 0, 0, 0, 0, 2, 1, 0, 0xFF, 0x7F] := by decide +kernel

/-- Table 11-8: range 1 with slot 1, LINK_LOCK and the enabled bit, start 10 and length 10. -/
theorem test_queryRange :
    (dataOf .queryRange [12, 1, 1] keyed).take 12 = [12, 1, 1, 1, 0x90, 0, 10, 0, 0, 0, 0, 10] := by decide +kernel

/-- Table 11-8: slot 1 READY (2), generation 3, one range referencing it. -/
theorem test_querySlot : dataOf .querySlot [12, 2, 1] keyed = [12, 2, 1, 2, 3, 0, 0, 1, 0] := by decide +kernel

/-- Table 11-8: an ACTIVE READ, ending status absent, the deadline present with 1,000,000 microseconds (F4240h) to go. -/
theorem test_queryContext :
    let d := dataOf .queryContext [12, 3, 4] (moving 4 (transfer .read 0 2) keyed)
    slice d 2 4 = [4, 1, 1, 0] ∧ slice d 17 4 = [0xFF, 2, 0, 0] ∧ slice d 30 4 = [0x40, 0x42, 0x0F, 0] := by decide +kernel

/-- Table 9-4: the limits after power-on. -/
theorem test_queryLimits :
    dataOf .queryLimits [12, 4, 0] keyed =
      [12, 4, 0, 0, 0, 0, 0, 1, 12, 4, 12, 4, 0x10, 0x27, 0x88, 0x13, 0, 0xFF, 0x7F] := by decide +kernel

/-- Section 10.8, event 5: POWER_ON is reported and cleared, and ATTENTION falls. -/
theorem test_clearEvents :
    dataOf .clearEvents [13, 0xFF, 0xFF] linked = [13, 1, 0] ∧
      (after .clearEvents (asked [13, 0xFF, 0xFF] linked)).events.attention = false := by decide +kernel

/-- R148: POWER_ON stays, ENGINE_RESET is set, the keys are gone. -/
theorem test_resetEngine :
    let t := after .resetEngine (asked [14] keyed)
    t.events.flags = 3#15 ∧ t.slots[0] = SlotRecord.reset := by decide +kernel

/-- R140: code 15 is none of the fourteen. -/
theorem test_unknownDirective : resultOf .unknownDirective [15] keyed = 1 ∧ dataOf .unknownDirective [] keyed = [0] := by
  decide +kernel

/-- The table gives no bits to any row. -/
theorem test_decodeTableWord : decodeTableWord 8 0xFF = none := by decide

/-- The idle step: a timer expires no later than one unit after its span (R157). -/
theorem test_idle_step :
    (tick { keyed with autoLock := some 0#64, time := 999#64 }).autoLock = some 0#64 ∧
      (tick { keyed with autoLock := some 0#64, time := 1000#64 }).autoLock = none := by decide +kernel

/-- R157: an expiry for which the auto-lock timer would be more than 1 ms late does not come; the auto-lock expiry does. -/
theorem test_expiry_waits_for_the_timers_before_it :
    let s := { moving 4 (transfer .read 0 2) keyed with autoLock := some 998999#64 }
    (after (.idleDeadlineExpiry 4) s).contexts[(4 : Tag)].state = .active ∧ (after .autoLockExpiry s).autoLock = none ∧
      (after (.idleDeadlineExpiry 4) { s with autoLock := some 999000#64 }).contexts[(4 : Tag)].state = .reporting := by
  decide +kernel

/-! ### Witnesses: states and operands that meet the hypotheses of the statements, clause by clause -/

/-- A directive is ready to be executed in a state whose unit is IDLE. -/
theorem ready_asked {code len : Nat} (p : Bytes) (s : State) (hr : Awake s) (hdu : s.du = none)
    (hc : param (entry p) 0 = code) (hl : p.length = len) (h : len < 65536) :
    Ready code len [] (entry p) [] (asked p s) := by
  refine ⟨hr, hdu, ⟨rfl, by simp, rfl⟩, rfl, hc, hl, ?_⟩
  simp [entry, directive, shaped, buildFrame, hl]
  omega

/-- The payload check of a built frame passes. -/
theorem shaped_undamaged (kind tag index form : Byte) (lba count : Nat) (p : Bytes) :
    payloadDamaged (shaped kind tag index form lba count p) = false := by
  simp [payloadDamaged, shaped, buildFrame]

/-- The payload check of a broken frame fails. -/
theorem broken_damaged {f : Frame} (h : payloadDamaged f = false) : payloadDamaged (broken f) = true := by
  have hc : f.check = check32 f.payload := by simpa [payloadDamaged] using h
  simp only [payloadDamaged, broken, hc, bne_iff_ne, ne_eq]
  intro hx
  have h0 := congrArg (fun b => b.getLsbD 0) hx
  simp at h0

/-- A state that meets every law, with a job in flight and a command in the queue. -/
def lawful : State :=
  { working (transfer .write 5 2) (.running (writeJob 9)) with pending := [.holdArrival .front] }

theorem test_lawful_steps : ∃ t, step lawful = .next t := ⟨_, rfl⟩

/-- An unjudged frame waits at the media head, as a front link loss leaves one. -/
def stranded : State := { keyed with miq := [{ frame := voidFrame 3 1 6, damaged := false }] }

/-- Every timer runs, and none has been passed by a unit: the auto-lock timer by 999 microseconds, an idle deadline by 99, and
the drain timer not at all. -/
def timing : State :=
  { moving 4 { transfer .read 0 2 with deadline := some 907#64 } drainingState with
    autoLock := some 7#64, time := 1006#64 }

theorem timing_none_due : NoneDue timing := by
  unfold NoneDue
  simp only [forall_timer, forall_deadline]
  decide +kernel

/-- A frame waits at a head; one does on which no step is taken; timers run of which none is due. -/
theorem test_witness_StepRunsTheFrontCommand :
    (stranded.inReset = false ∧ headsWait stranded = true ∧ Instr.laneJobStart ∉
      [Instr.powerOn, .powerOnResetAsserted, .frontLinkDown, .frontLinkUp, .mediaLinkDown, .mediaLinkUp]) ∧
    (State.reset.pending = [] ∧ { State.reset with inReset := true }.inReset = true) ∧
    Awake timing ∧ NoneDue timing :=
  ⟨by decide +kernel, by decide +kernel, by decide +kernel, timing_none_due⟩

theorem test_witness_ResetInputHoldsThePart :
    { keyed with inReset := true }.inReset = true ∧ Instr.frontLinkUp ≠ .powerOn ∧
      Instr.frontLinkUp ≠ .powerOnResetAsserted := by
  constructorm* _ ∧ _ <;> decide +kernel

theorem test_witness_AttentionFollowsTheFlags : AttentionTells lawful ∧ ∃ t, step lawful = .next t :=
  ⟨by decide +kernel, test_lawful_steps⟩

theorem test_witness_RangesStayDisjoint : RangesDisjoint lawful ∧ ∃ t, step lawful = .next t :=
  ⟨by decide +kernel, test_lawful_steps⟩

theorem test_witness_QueuesStayBounded : QueuesBounded lawful ∧ ∃ t, step lawful = .next t :=
  ⟨by decide +kernel, test_lawful_steps⟩

/-- A READ output is held for an ACTIVE transfer that has taken index 0. -/
def holding : State :=
  { working { transfer .read 5 2 with marks := 1 } (.holding (readJob 9) (flowFrame .go) .fsq) with
    fsqHold := [2], pending := [.frontLinkDown] }

/-- The hold lists agree, when the lists and the lanes say so. -/
theorem holdListsAgree_of {s : State} (lanes : LaneAccounts s) (moq : s.moqHold.Nodup) (fsq : s.fsqHold.Nodup)
    (held : ∀ l : LaneIx, (l ∈ s.moqHold ↔ heldFor s.lanes[l] = some .moq) ∧
      (l ∈ s.fsqHold ↔ heldFor s.lanes[l] = some .fsq))
    (runs : ∀ l : LaneIx, match heldRead s.lanes[l] with | some t => s.contexts[t].state.running = true | none => True) :
    HoldListsAgree s :=
  ⟨lanes, moq, fsq, fun l => (held l).1, fun l => (held l).2, fun l t h => by have := runs l; rw [h] at this; exact this⟩

theorem holding_agrees : HoldListsAgree holding := by
  refine holdListsAgree_of ?_ ?_ ?_ ?_ fun l => ?_
  case refine_5 => fin_cases l <;> first | exact True.intro | exact rfl
  all_goals decide +kernel

theorem lawful_holds : HoldListsAgree lawful := by
  refine holdListsAgree_of ?_ ?_ ?_ ?_ fun l => ?_
  case refine_5 => fin_cases l <;> exact True.intro
  all_goals decide +kernel

/-- No lane is HOLDING, and one is. -/
theorem test_witness_LaneAccountsBalance :
    (LaneAccounts lawful ∧ HoldListsAgree lawful ∧ ∃ t, step lawful = .next t) ∧
      HoldListsAgree holding ∧ ∃ t, step holding = .next t :=
  ⟨⟨by decide +kernel, lawful_holds, test_lawful_steps⟩, holding_agrees, _, rfl⟩

/-- The keys in use are held, when the spans and the lane jobs say so. -/
theorem keysHeld_of {s : State} (ranges : RangesDisjoint s) (lanes : LaneAccounts s) (slots : SlotsAgree s)
    (spans : ∀ t : Tag, s.contexts[t].state.isOpen = true → ∀ i < s.contexts[t].count, ∃ k : SlotIx,
      s.ranges[lookup s.ranges (s.contexts[t].start + i)].slot = some k ∧
      (s.slots[k].state = .ready ∨ (s.slots[k].state = .draining ∧ t ∈ s.slots[k].drainSet)))
    (jobs : ∀ l : LaneIx, match s.lanes[l].job with | some j => SpanUses j.tag j.slot s | none => True) : KeysHeld s :=
  ⟨ranges, lanes, slots, spans, fun l j hj => by have := jobs l; rw [hj] at this; exact this⟩

theorem lawful_keysHeld : KeysHeld lawful :=
  keysHeld_of (by decide +kernel) (by decide +kernel) (by decide +kernel) (by decide +kernel) (by
    intro l
    fin_cases l <;> first | exact True.intro | exact ⟨0, by decide +kernel, by decide +kernel⟩)

/-- A step; an EMPTY slot and a READY one that no transfer uses; a FILLING slot; a DRAINING slot whose transfers have no job in
flight; a candidate for a lane. -/
theorem test_witness_SlotsFollowTheDirectiveUnit :
    (SlotsAgree lawful ∧ KeysHeld lawful ∧ (∃ t, step lawful = .next t) ∧ lawful.slots[(2 : SlotIx)].state = .empty ∧
      lawful.slots[(1 : SlotIx)].state = .ready ∧ drainSetOf 1 lawful = []) ∧
    (let s := doing (.filling 2 0 1)
       { keyed with slots := keyed.slots.set 2 { SlotRecord.reset with state := .filling } }
     KeysHeld s ∧ s.slots[(2 : SlotIx)].state = .filling) ∧
    (let s := moving 4 (transfer .read 0 2) (doing (.draining 0 .discard none)
       { keyed with slots := keyed.slots.set 0 { keyed.slots[0] with state := .draining, drainSet := [4] } })
     KeysHeld s ∧ s.slots[(0 : SlotIx)].state = .draining ∧
      ∀ t ∈ s.slots[(0 : SlotIx)].drainSet, s.contexts[t].jobs = 0) ∧
    KeysHeld waiting ∧ Waits .front { frame := writeSector 2 0 5, damaged := false } waiting := by
  have idle {s : State} (h : ∀ l : LaneIx, s.lanes[l] = .idle) :
      ∀ l : LaneIx, match s.lanes[l].job with | some j => SpanUses j.tag j.slot s | none => True := by
    intro l
    rw [h l]
    exact True.intro
  refine ⟨⟨by decide +kernel, lawful_keysHeld, test_lawful_steps, by decide +kernel, by decide +kernel, by decide +kernel⟩,
    ⟨keysHeld_of ?_ ?_ ?_ ?_ (idle ?_), ?_⟩, ⟨keysHeld_of ?_ ?_ ?_ ?_ (idle ?_), ?_, ?_⟩, keysHeld_of ?_ ?_ ?_ ?_ (idle ?_),
    .inl ⟨rfl, rfl, ?_⟩⟩ <;> decide +kernel

/-- Any command but a link event, an empty queue, and a link-up event. -/
theorem test_witness_HeadsComeToRest :
    (HeadsLawful lawful ∧ lawful.inReset = false ∧
      (∀ c ∈ lawful.pending.head?, c ∉ [Instr.frontLinkDown, .frontLinkUp, .mediaLinkDown, .mediaLinkUp]) ∧
      ∃ t, step lawful = .next t) ∧
    (HeadsLawful stranded ∧
      ∀ c ∈ stranded.pending.head?, c ∉ [Instr.frontLinkDown, .frontLinkUp, .mediaLinkDown, .mediaLinkUp]) ∧
    (AtRest lawful ∧ ∃ c ∈ ({ lawful with pending := [.frontLinkUp] } : State).pending.head?,
      c = .frontLinkUp ∨ c = .mediaLinkUp) :=
  ⟨⟨by decide +kernel, by decide, by decide +kernel, test_lawful_steps⟩, by decide +kernel, by decide +kernel,
    .frontLinkUp, rfl, .inl rfl⟩

theorem test_witness_FlowControlStaysInStep : FlowControl lawful ∧ ∃ t, step lawful = .next t :=
  ⟨by decide +kernel, test_lawful_steps⟩

theorem test_witness_ReportsStayOwed : ReportsOwed lawful ∧ ∃ t, step lawful = .next t :=
  ⟨by decide +kernel, test_lawful_steps⟩

/-- The bound of 72 with a full Directive Queue. -/
theorem test_witness_ReportsStayOwed_bound :
    ReportsOwed { keyed with drq := List.replicate 8 (entry [5, 0]) } ∧
      { keyed with drq := List.replicate 8 (entry [5, 0]) }.drq.length ≤ 8 := by
  constructorm* _ ∧ _ <;> decide +kernel

theorem test_witness_TransmittersStayBusy : TransmittersBusy lawful ∧ ∃ t, step lawful = .next t :=
  ⟨by decide +kernel, test_lawful_steps⟩

/-- One block; two blocks and a tail; one block and a tail, where the first clause of the tail is empty. -/
theorem test_witness_BlocksAndTailUnderTheirTweaks :
    (List.replicate 16 (1 : Byte)).length = 16 * 1 ∧ 0 < 1 ∧ (List.replicate 40 (1 : Byte)).length = 16 * 2 + 8 ∧
      0 < 2 - 1 ∧ (List.replicate 24 (1 : Byte)).length = 16 * 1 + 8 ∧ 1 ≤ 1 := by
  constructorm* _ ∧ _ <;> decide +kernel

/-- Format 3 with ciphered metadata. -/
def wideInputs : InputSet :=
  inputSet 5 0 { keyed.ranges[0] with metaCipher := true } keyed.slots[0] 3

theorem test_witness_SectorRoundTrip :
    (List.replicate 4104 (1 : Byte)).length = sectorLength wideInputs.format ∧
      (List.replicate 4104 (1 : Byte)).length = cipheredLength wideInputs.metaCipher wideInputs.format ∧
      cipherRegion (Config.blockTransform wideInputs.dataKey) (sectorTweak wideInputs) (List.replicate 4104 1) =
        cipherRegion (Config.blockTransform wideInputs.dataKey) (sectorTweak wideInputs) (List.replicate 4104 1) :=
  ⟨by decide +kernel, by decide +kernel, rfl⟩

/-- The last LBA below the greatest ceiling, in range 0, and the ends of range 1; one LBA taken twice. -/
theorem test_witness_OffsetsAndSeeds :
    RangesDisjoint keyed ∧ 2 ^ 40 - 1 < keyed.limits.ceiling ∧ lookup keyed.ranges (2 ^ 40 - 1) = 0 ∧
      lookup keyed.ranges 10 = 1 ∧ lookup keyed.ranges 19 = lookup keyed.ranges 10 ∧ lookup keyed.ranges 20 = 0 ∧
      tweakOffset (inputSet 10 1 keyed.ranges[1] keyed.slots[1] 0) =
        tweakOffset (inputSet 10 1 keyed.ranges[1] keyed.slots[1] 0) ∧
      seed wideInputs = seed wideInputs := by
  refine ⟨?_, ?_, ?_, ?_, ?_, ?_, rfl, rfl⟩ <;> decide +kernel

/-- Eighty zero bytes and the check block that they have under a wrapping key. -/
def openable (w : WrappingKey) : Bytes := List.replicate 80 0 ++ checkBlock w (List.replicate 80 0)

theorem openable_length (w : WrappingKey) : (openable w).length = 96 := by
  rw [openable, List.length_append, List.length_replicate, checkBlock, bytesOfBlock_length]

theorem openable_opens (w : WrappingKey) : openRecord w (openable w) =
    some (keyOfBytes (decipherWithSeed w.halfB w.halfA (blockOfBytes (openable w)) (slice (openable w) 16 64)),
      keyOfBytes ((decipherWithSeed w.halfB w.halfA (blockOfBytes (openable w)) (slice (openable w) 16 64)).drop 32),
      BitVec.ofNat 16 (field (openable w) 1 2)) := by
  unfold openRecord
  rw [if_pos]
  have hs := slice_append_right (List.replicate 80 0) (checkBlock w (List.replicate 80 0)) 0 16
  rw [List.length_replicate, Nat.add_zero] at hs
  rw [openable, hs, List.take_left' (List.length_replicate ..), slice, List.drop_zero, List.take_of_length_le]
  rw [checkBlock, bytesOfBlock_length]

/-- Some sixteen bytes are not the check block, which cannot be both of two runs; and some record of 96 bytes opens. -/
theorem test_witness_WrappedRecordRoundTrip (w : WrappingKey) :
    (∃ other : Bytes, other.length = 16 ∧ other ≠ slice (makeRecord w 0 0 0 0) 80 16) ∧
      ∃ record : Bytes, record.length = 96 ∧ ∃ dataKey tweakKey g, openRecord w record = some (dataKey, tweakKey, g) := by
  refine ⟨?_, openable w, openable_length w, _, _, _, openable_opens w⟩
  by_cases h : List.replicate 16 (0 : Byte) = slice (makeRecord w 0 0 0 0) 80 16
  · refine ⟨List.replicate 16 1, rfl, ?_⟩
    rw [← h]
    decide
  · exact ⟨List.replicate 16 0, rfl, h⟩

/-- Bytes of the two lengths, the first and the last byte of a field, and the greatest tag that names a context. -/
theorem test_witness_HeadersAndTrailersRoundTrip :
    (List.replicate 16 (255 : Byte)).length = 16 ∧ (List.replicate 8 (255 : Byte)).length = 8 ∧ 0 < 5 ∧ 4 < 5 ∧
      (voidFrame 63 0 0).header.tag.toNat ≤ 63 := by decide

/-- A write that makes a ZERO frame, one that does not, of the length of its format, and a read; a COMPLETION of a READ; a
RESPONSE to a directive with a payload and without one. -/
theorem test_witness_OutputFrames :
    ((job 9 (.plain [0, 0])).sector = .plain [0, 0] ∧
      ({ wideInputs with zeroMark := true }.zeroMark = true ∧ ∀ b ∈ ([0, 0] : Bytes), b = 0) ∧
      ¬ ((job 9 (.plain [0, 0])).inputs.zeroMark = true ∧ ∀ b ∈ ([0, 0] : Bytes), b = 0) ∧
      (List.replicate 512 (0 : Byte)).length = sectorLength (job 9 (.plain [])).inputs.format) ∧
    ((readJob 9).sector = .ciphered [] [] ⟨0, 0, 0, 0⟩ ∧
      (List.replicate 512 (0 : Byte)).length = cipheredLength (readJob 9).inputs.metaCipher (readJob 9).inputs.format ∧
      ([] : Bytes).length =
        sectorLength (readJob 9).inputs.format - cipheredLength (readJob 9).inputs.metaCipher (readJob 9).inputs.format) ∧
    { transfer .read 0 2 with ending := some .done }.ending = some .done ∧ (directive []).payload = [] ∧
    (directive [5, 0]).payload ≠ [] := by
  constructorm* _ ∧ _ <;> decide +kernel

/-- Queues at their capacities; no deadline, one to come and one that has passed. -/
theorem test_witness_ViewLayouts :
    (QueuesBounded { keyed with moq := sixteen, rpq := List.replicate 72 (flowFrame .go) } ∧
      (List.replicate 72 (flowFrame .go)).length ≤ 72 ∧ 255 < 256) ∧
    Context.free.deadline = none ∧ (transfer .read 0 2).deadline = some 1000000#64 ∧
    (1000000#64 - 1000000#64).toNat < 2 ^ 63 ∧ 2 ^ 63 ≤ (1000000#64 - 1000001#64).toNat := by
  constructorm* _ ∧ _ <;> decide +kernel

/-- The LBAs on both sides of both ends of range 1. -/
theorem test_witness_LookupFindsTheOneRange :
    RangesDisjoint keyed ∧ (1 : RangeIx) ≠ 0 ∧ [9, 10, 19, 20].map (lookup keyed.ranges) = [0, 1, 1, 0] := by
  constructorm* _ ∧ _ <;> decide +kernel

theorem test_witness_TouchedRangesAndDrainSets :
    drainSetOf 0 (moving 9 (transfer .write 9 1) keyed) = [9] ∧ drainSetOf 0 (moving 9 (transfer .write 10 9) keyed) = [] := by
  constructorm* _ ∧ _ <;> decide +kernel

/-- A flow frame in transmission; without one, each clause at its mark. -/
theorem test_witness_MarkTestRule :
    (∃ f, { Port.reset with sending := some (.flow .hold) }.sending = some (.flow f)) ∧
      (∀ f, Port.reset.sending ≠ some (.flow f)) ∧ Port.reset.held = false ∧ 12 ≤ 12 ∧ 11 < 12 ∧
      (∀ f, { Port.reset with held := true }.sending ≠ some (.flow f)) ∧ { Port.reset with held := true }.held = true ∧
      4 ≤ 4 ∧ 4 < 5 := by
  refine ⟨⟨.hold, rfl⟩, ?_, rfl, by decide, by decide, ?_, rfl, by decide, by decide⟩ <;>
    · intro f h
      cases h

/-- The clauses in the order of the statement. -/
theorem test_witness_TransmittersChoose :
    State.reset.front.link = .down ∧ keyed.front.link = .up ∧ keyed.front.sending = none ∧
      { keyed.front with pendingFlow := some .hold }.pendingFlow = some .hold ∧ keyed.front.pendingFlow = none ∧
      { keyed.front with peerHold := true }.peerHold = true ∧ keyed.front.peerHold = false ∧ keyed.rpq = [] ∧
      keyed.fsq = [] ∧ keyed.frontTurn = .rpq ∧ sixteen ≠ [] ∧ { keyed with frontTurn := .fsq }.frontTurn = .fsq ∧
      State.reset.media.link = .down ∧ keyed.media.link = .up ∧ keyed.media.sending = none ∧
      keyed.media.pendingFlow = none ∧ keyed.media.peerHold = false ∧ keyed.moq = [] := by
  constructorm* _ ∧ _ <;> decide +kernel

/-- A COMPLETION, a RESPONSE, a sector frame on each link, a flow frame, and nothing in transmission. -/
theorem test_witness_TransmissionsEnd :
    let ending : Context := { transfer .read 0 2 with state := .reporting }
    let s : State :=
      { moving 63 ending keyed with
        rpq := [completionFrame 63 ending], front := { keyed.front with sending := some .rpq } }
    let u : State :=
      { keyed with
        rpq := [responseFrame (directive [5, 0]) .ok []], front := { keyed.front with sending := some .rpq } }
    let v : State :=
      { keyed with
        fsq := sixteen, moq := sixteen, front := { keyed.front with sending := some .fsq },
        media := { keyed.media with sending := some .moq } }
    (Awake s ∧ s.front.sending = some .rpq ∧ s.rpq = completionFrame 63 ending :: [] ∧
      (completionFrame 63 ending).header.kind = Kind.completion ∧
      s.contexts[frameTag (completionFrame 63 ending)].state = .reporting) ∧
    (Awake u ∧ u.front.sending = some .rpq ∧ u.rpq = responseFrame (directive [5, 0]) .ok [] :: [] ∧
      (responseFrame (directive [5, 0]) .ok []).header.kind = Kind.response) ∧
    (Awake v ∧ v.front.sending = some .fsq ∧ v.fsq = flowFrame .hold :: List.replicate 15 (flowFrame .hold) ∧
      v.media.sending = some .moq ∧ v.moq = flowFrame .hold :: List.replicate 15 (flowFrame .hold)) ∧
    (let w : State := { keyed with front := { keyed.front with sending := some (.flow .go) } }
     Awake w ∧ (w.port .front).sending = some (.flow .go)) ∧
    Awake keyed ∧ keyed.front.sending = none ∧ keyed.media.sending = none := by
  intro ending s u v
  dsimp only
  constructorm* _ ∧ _ <;> decide +kernel

theorem test_witness_LinkReportsTaken :
    State.reset.inReset = false ∧ State.reset.front.link = .down ∧ State.reset.media.link = .down ∧
      linked.inReset = false ∧ linked.front.link = .up ∧ linked.media.link = .up := by
  constructorm* _ ∧ _ <;> decide +kernel

/-- A read output is held for an ACTIVE transfer, another context reports, one ends, and a directive runs. -/
def unlucky : State :=
  { moving 6 { transfer .write 0 4 with state := .ending, jobs := 1 }
      (moving 5 { transfer .write 0 1 with state := .reporting } (working (transfer .read 5 2)
        (.holding (readJob 9) (flowFrame .go) .fsq))) with
    fsqHold := [2], drq := [entry [6]], du := some ⟨.filling 2 0 1, false⟩,
    lanes := ((keyed.lanes.set 2 (.holding (readJob 9) (flowFrame .go) .fsq)).set 1
      (.holding (writeJob 6) (flowFrame .go) .moq)).set 0 (.running (writeJob 6)) }

/-- Slot 0 is drained of a transfer that may have a job in flight. -/
def drains (jobs : Nat) (goal : DrainGoal) (silent : Bool) (random : RandomState) : State :=
  doing (.draining 0 goal none)
    (moving 4 { transfer .read 0 2 with jobs := jobs }
      { keyed with
        slots := keyed.slots.set 0 { keyed.slots[0] with state := .draining, drainSet := [4] }, random := random })
    silent

/-- Either link is lost during a drain, which goes on over a job in flight and is complete without one: each goal, with the
source READY and FAILED, answered and silent. -/
theorem test_witness_DrainGoesOn :
    ∀ c ∈ [Instr.frontLinkDown, .mediaLinkDown], ∀ jobs ∈ [0, 1], ∀ goal ∈ [DrainGoal.discard, .rekey 0 4], ∀ silent,
      ∀ random ∈ [RandomState.ready, .failed],
      let s := drains jobs goal silent random
      (HeadsLawful s ∧ s.inReset = false ∧ s.front.link = .up ∧ s.media.link = .up ∧ Next [] (entry [6]) [] s ∧
        SlotsAgree s ∧ s.random = random ∧ s.du = some ⟨.draining 0 goal none, silent⟩) ∧
      (s.slots[(0 : SlotIx)].drainSet.filter (fun i => (after c s).contexts[i].state.isOpen)).length = jobs := by
  decide +kernel

/-- No frame is judged, and one is with another behind it; a directive runs that drains no slot, and none does; a READ output
is held. -/
theorem test_witness_FrontLinkLoss :
    (HeadsLawful unlucky ∧ unlucky.inReset = false ∧ unlucky.front.link = .up ∧ unlucky.verdict = none ∧
      unlucky.contexts[(0 : Tag)].state = .free ∧ unlucky.contexts[(5 : Tag)].state = .reporting ∧
      unlucky.lanes[(2 : LaneIx)] = .holding (readJob 9) (flowFrame .go) .fsq ∧
      unlucky.contexts[(readJob 9).tag].state.running = true ∧ unlucky.lanes[(0 : LaneIx)] = .running (writeJob 6)) ∧
    (Next [] (entry [6]) [] unlucky ∧ unlucky.du = some ⟨.filling 2 0 1, false⟩ ∧ drainedSlot unlucky = none ∧
      unlucky.contexts[(6 : Tag)].state = .ending) ∧
    (HeadsLawful holding ∧ holding.inReset = false ∧ holding.front.link = .up ∧ HoldListsAgree holding) ∧
    (HeadsLawful losing ∧ losing.inReset = false ∧ losing.front.link = .up ∧ losing.verdict ≠ none ∧ losing.du = none) ∧
    HeadsLawful stranded ∧ stranded.front.link = .up ∧ stranded.verdict = none := by
  constructorm* _ ∧ _ <;> first | exact holding_agrees | decide +kernel

/-- An empty FIQ, a sector that waits at its head, a head that is no such sector; an ENDING context with a job; a READ output
that is held; a directive that drains no slot; an open context that is suppressed; the front transmitter idle and busy. -/
theorem test_witness_MediaLinkLoss :
    (unlucky.inReset = false ∧ unlucky.media.link = .up ∧ unlucky.fiq = [] ∧
      unlucky.contexts[(9 : Tag)].state.running = true ∧ unlucky.contexts[(0 : Tag)].state = .free ∧
      unlucky.contexts[(0 : Tag)].jobs = 0 ∧ unlucky.contexts[(6 : Tag)].state = .ending ∧
      unlucky.contexts[(6 : Tag)].jobs ≠ 0 ∧ drainedSlot unlucky = none ∧ drainedSlot unlucky ≠ some 0) ∧
    (holding.inReset = false ∧ holding.media.link = .up ∧ HoldListsAgree holding) ∧
    (unlucky.lanes[(0 : LaneIx)] = .running (writeJob 6) ∧
      unlucky.lanes[(1 : LaneIx)] = .holding (writeJob 6) (flowFrame .go) .moq ∧
      unlucky.lanes[(2 : LaneIx)] = .holding (readJob 9) (flowFrame .go) .fsq) ∧
    (waiting.inReset = false ∧ waiting.media.link = .up ∧ (∃ q ∈ waiting.fiq.head?, frontCandidate q waiting = true) ∧
      waiting.front.sending = none) ∧
    (let s : State :=
      { moving 2 { transfer .read 0 2 with suppressed := true } keyed with
        fiq := waiting.fiq, front := { keyed.front with sending := some .rpq } }
     s.inReset = false ∧ s.media.link = .up ∧ ¬ (∃ q ∈ s.fiq.head?, frontCandidate q s = true) ∧
      s.contexts[(2 : Tag)].state.running = true ∧ s.contexts[(2 : Tag)].suppressed = true ∧ s.front.sending ≠ none) := by
  dsimp only
  constructorm* _ ∧ _ <;> first | exact holding_agrees | decide +kernel

theorem test_witness_FlowFramesArrive :
    Listening .front keyed ∧ Listening .media keyed ∧ AtRest keyed ∧ headerGood (flowFrame .hold) = true ∧
      (flowFrame .hold).header.kind.toNat = 8 ∧ headerGood (flowFrame .go) = true ∧
      (flowFrame .go).header.kind.toNat = 9 ∧ Awake State.reset ∧ (State.reset.port .media).link = .down := by
  constructorm* _ ∧ _ <;> decide +kernel

/-- A bad header check; kinds 0, 4, 6 and 10 on the front link, kinds 1, 3 and 10 on the media link, tag 64; a DIRECTIVE with
seven and with eight entries before it. -/
theorem test_witness_ArrivalsOutsideTheIntake :
    let bad : Frame := { voidFrame 0 0 0 with header := { (voidFrame 0 0 0).header with check := 0 } }
    (Listening .front keyed ∧ Listening .media keyed ∧ AtRest keyed ∧ headerGood bad = false) ∧
    (∀ k ∈ ([0, 4, 6, 10] : List Byte),
      headerGood (shaped k 0 0 0 0 1 []) = true ∧ (shaped k 0 0 0 0 1 []).header.kind.toNat ∉ [1, 2, 3, 8, 9]) ∧
    (∀ k ∈ ([1, 3, 10] : List Byte),
      headerGood (shaped k 0 0 0 0 1 []) = true ∧ (shaped k 0 0 0 0 1 []).header.kind.toNat ∉ [2, 6, 7, 8, 9]) ∧
    (headerGood (openFrame 64 0 0 1) = true ∧ (openFrame 64 0 0 1).header.kind.toNat ∈ [1, 2, 6, 7] ∧
      63 < (openFrame 64 0 0 1).header.tag.toNat) ∧
    (headerGood (directive [5, 0]) = true ∧ (directive [5, 0]).header.kind.toNat = 3 ∧
      { keyed with drq := List.replicate 7 (entry [5, 0]) }.drq.length < 8 ∧
      8 ≤ { keyed with drq := List.replicate 8 (entry [5, 0]) }.drq.length) := by
  intro bad
  constructorm* _ ∧ _ <;> decide +kernel

/-- The write sector at the head of `waiting` with fourteen or fifteen VOID frames' worth of others behind it. -/
def crowded (n : Nat) : State :=
  { waiting with fiq := waiting.fiq ++ List.replicate n { frame := writeSector 2 0 5, damaged := false } }

/-- A judged read frame at the media head with others behind it. -/
def crowdedMedia (n : Nat) : State :=
  { bypassing with miq := bypassing.miq ++ List.replicate n { frame := voidFrame 3 0 5, damaged := false } }

theorem test_witness_IntakeFramesQueueOrOverrun :
    (Listening .front (crowded 14) ∧ AtRest (crowded 14) ∧ headerGood (openFrame 63 0 0 1) = true ∧
      (openFrame 63 0 0 1).header.tag.toNat ≤ 63 ∧ (openFrame 63 0 0 1).header.kind.toNat ∈ [1, 2] ∧
      (crowded 14).intake .front ≠ [] ∧ ((crowded 14).intake .front).length < 16) ∧
    (Listening .front (crowded 15) ∧ AtRest (crowded 15) ∧ 16 ≤ ((crowded 15).intake .front).length ∧
      (crowded 15).contexts[frameTag (openFrame 63 0 0 1)].state.running = false) ∧
    (let s := moving 63 (transfer .write 0 1) (crowded 15)
     Listening .front s ∧ AtRest s ∧ 16 ≤ (s.intake .front).length ∧
      s.contexts[frameTag (openFrame 63 0 0 1)].state.running = true ∧
      Unencumbered (frameTag (openFrame 63 0 0 1)) s) ∧
    (headerGood (openFrame 2 0 0 1) = true ∧ (openFrame 2 0 0 1).header.tag.toNat ≤ 63 ∧
      (openFrame 2 0 0 1).header.kind.toNat ∈ [1, 2] ∧
      (crowded 15).contexts[frameTag (openFrame 2 0 0 1)].state.running = true ∧
      ¬ Unencumbered (frameTag (openFrame 2 0 0 1)) (crowded 15)) ∧
    (Listening .media (crowdedMedia 14) ∧ AtRest (crowdedMedia 14) ∧ headerGood (voidFrame 9 0 0) = true ∧
      (voidFrame 9 0 0).header.tag.toNat ≤ 63 ∧ (voidFrame 9 0 0).header.kind.toNat ∈ [2, 6, 7] ∧
      (crowdedMedia 14).intake .media ≠ [] ∧ ((crowdedMedia 14).intake .media).length < 16) := by
  dsimp only
  constructorm* _ ∧ _ <;> decide +kernel

/-- The state in which a frame has come to the front head with another behind it, or to the media head. -/
def comingFront (f : Frame) (damaged : Bool) (s : State) : State :=
  { s with fiq := [{ frame := f, damaged := damaged }, { frame := openFrame 60 0 0 1, damaged := false }] }
def comingMedia (f : Frame) (damaged : Bool) (s : State) : State :=
  { s with miq := [{ frame := f, damaged := damaged }, { frame := voidFrame 60 0 0, damaged := false }] }

theorem coming_front (f : Frame) (damaged : Bool) (s : State) : AtFrontHead f damaged (comingFront f damaged s) := rfl
theorem coming_media (f : Frame) (damaged : Bool) {s : State} (hq : s.fiq = []) (hv : s.verdict = none) :
    AtMediaHead f damaged (comingMedia f damaged s) :=
  ⟨by rw [show (comingMedia f damaged s).fiq = s.fiq from rfl, hq]; simp, hv, rfl⟩

/-- A READ of 256 sectors that ends at the ceiling: it arrives, or comes from behind. -/
theorem test_witness_OpenIsTaken :
    let f := openFrame 63 0x80 (2 ^ 40 - 256) 256
    AtFrontHead f false (comingFront f false keyed) ∧ (comingFront f false keyed).contexts[frameTag f].state = .free ∧
    ArrivesAlone .front f keyed ∧ f.header.kind.toNat = 1 ∧ keyed.contexts[frameTag f].state = .free ∧
      payloadDamaged f = false ∧ frameFormat f ≤ 3 ∧ frameLba f + frameCount f = keyed.limits.ceiling ∧
      ∀ k ∈ touched keyed.ranges (frameLba f) (frameCount f), RangeAllows (frameDirection f) k keyed := by
  intro f
  constructorm* _ ∧ _ <;> decide +kernel

/-- Each check of Table 4-3 as the first that fails; then the three kinds of other states. Every such OPEN may also come to
the head from behind (`coming_front`), where the damage mark is the frame's own. -/
theorem test_witness_OpenIsRefusedOrDropped :
    let locked : State := { keyed with ranges := keyed.ranges.set 0 { keyed.ranges[0] with writeLock := true } }
    let keyless : State := { keyed with slots := keyed.slots.set 0 { keyed.slots[0] with state := .filling } }
    let changing : State := { keyed with slots := keyed.slots.set 0 { keyed.slots[0] with state := .draining } }
    let f := openFrame 1 0 19 2
    (ArrivesAlone .front f keyed ∧ f.header.kind.toNat = 1 ∧ keyed.contexts[frameTag f].state = .free ∧
      InNoDrain (frameTag f) keyed) ∧
    (OpenFails (payloadDamaged (broken f)) (broken f) .damaged [] 0 [] keyed ∧ ArrivesAlone .front (broken f) keyed) ∧
    (OpenFails (payloadDamaged (openFrame 1 4 19 2)) (openFrame 1 4 19 2) .badFormat [] 0 [] keyed ∧ ArrivesAlone .front (openFrame 1 4 19 2) keyed) ∧
    (OpenFails (payloadDamaged (openFrame 1 0 (2 ^ 40 - 1) 2)) (openFrame 1 0 (2 ^ 40 - 1) 2) .outOfRange [] 0 [] keyed ∧
      ArrivesAlone .front (openFrame 1 0 (2 ^ 40 - 1) 2) keyed) ∧
    (OpenFails (payloadDamaged f) f .locked [1] 0 [] locked ∧ ArrivesAlone .front f locked) ∧
    (OpenFails (payloadDamaged f) f .noKey [1] 0 [] keyless ∧ ArrivesAlone .front f keyless) ∧
    (OpenFails (payloadDamaged f) f .keyChanging [1] 0 [] changing ∧ ArrivesAlone .front f changing) ∧
    (ArrivesAlone .front (openFrame 5 0 0 1) unlucky ∧ unlucky.contexts[frameTag (openFrame 5 0 0 1)].state = .reporting) ∧
    (ArrivesAlone .front f (moving 1 (transfer .read 0 1) keyed) ∧
      (moving 1 (transfer .read 0 1) keyed).contexts[frameTag f].state.running = true ∧
      Unencumbered (frameTag f) (moving 1 (transfer .read 0 1) keyed)) ∧
    (let held := { working (transfer .read 5 2) (.holding (readJob 9) (flowFrame .go) .fsq) with fsqHold := [2] }
     ArrivesAlone .front (openFrame 9 0 0 1) held ∧ held.contexts[frameTag (openFrame 9 0 0 1)].state.running = true ∧
      ¬ Unencumbered (frameTag (openFrame 9 0 0 1)) held) ∧
    (AtFrontHead f true (comingFront f true keyed) ∧ OpenFails true f .damaged [] 0 [] (comingFront f true keyed) ∧
      (comingFront f true keyed).contexts[frameTag f].state = .free ∧ InNoDrain (frameTag f) (comingFront f true keyed)) ∧
    (AtFrontHead f false (comingFront f false (moving 1 (transfer .read 0 1) keyed)) ∧
      (comingFront f false (moving 1 (transfer .read 0 1) keyed)).contexts[frameTag f].state.running = true) ∧
    AtFrontHead (openFrame 5 0 0 1) false (comingFront (openFrame 5 0 0 1) false unlucky) ∧
      (comingFront (openFrame 5 0 0 1) false unlucky).contexts[(5 : Tag)].state = .reporting := by
  intro locked keyless changing f
  refine ⟨?_, ⟨.inl ⟨rfl, ?_⟩, ?_⟩, ⟨.inr (.inl ⟨rfl, ?_, ?_⟩), ?_⟩, ⟨.inr (.inr (.inl ⟨rfl, ?_, ?_, ?_⟩)), ?_⟩,
    ⟨.inr (.inr (.inr ⟨?_, ?_, ?_, ?_, ?_, ?_⟩)), ?_⟩, ⟨.inr (.inr (.inr ⟨?_, ?_, ?_, ?_, ?_, ?_⟩)), ?_⟩,
    ⟨.inr (.inr (.inr ⟨?_, ?_, ?_, ?_, ?_, ?_⟩)), ?_⟩, ?_, ?_, ?_,
    ⟨coming_front _ _ _, .inl ⟨rfl, rfl⟩, ?_, ?_⟩, ⟨coming_front _ _ _, ?_⟩, coming_front _ _ _, ?_⟩ <;>
    decide +kernel

/-- No context, a READ one, a REPORTING one; then each check of R70, and none. -/
theorem test_witness_WriteSectorAtTheHead :
    let s := moving 2 (transfer .write 5 3) keyed
    let good := writeSector 2 0 5
    (ArrivesAlone .front good keyed ∧ good.header.kind.toNat = 2 ∧ keyed.contexts[frameTag good].state = .free) ∧
    (ArrivesAlone .front (writeSector 5 0 0) unlucky ∧
      unlucky.contexts[frameTag (writeSector 5 0 0)].state = .reporting) ∧
    (ArrivesAlone .front good s ∧ s.contexts[frameTag good].state = .active ∧
      s.contexts[frameTag good].direction = .write ∧ good.header.index.toNat = s.contexts[frameTag good].taken ∧
      frameLba good = s.contexts[frameTag good].start + good.header.index.toNat ∧
      good.header.length.toNat = sectorLength s.contexts[frameTag good].format ∧
      frameFormat good = s.contexts[frameTag good].format.val ∧ payloadDamaged good = false) ∧
    (ArrivesAlone .front (writeSector 2 1 6) s ∧ (writeSector 2 1 6).header.index.toNat ≠ s.contexts[(2 : Tag)].taken) ∧
    (ArrivesAlone .front (shaped 2 2 0 0 5 1 []) s ∧
      (shaped 2 2 0 0 5 1 []).header.length.toNat ≠ sectorLength s.contexts[(2 : Tag)].format) ∧
    (ArrivesAlone .front (broken good) s ∧ payloadDamaged (broken good) = true) ∧ Unencumbered (frameTag good) s ∧
    (∀ damaged, AtFrontHead good damaged (comingFront good damaged s) ∧
      (comingFront good damaged s).contexts[frameTag good] = s.contexts[frameTag good]) ∧
    (AtFrontHead good false (comingFront good false keyed) ∧
      (comingFront good false keyed).contexts[frameTag good].state = .free) ∧
    AtFrontHead (writeSector 5 0 0) true (comingFront (writeSector 5 0 0) true unlucky) ∧
      (comingFront (writeSector 5 0 0) true unlucky).contexts[(5 : Tag)].state = .reporting := by
  intro s good
  have h : payloadDamaged good = false := shaped_undamaged _ _ _ _ _ _ _
  refine ⟨?_, ?_, ⟨?_, ?_, ?_, ?_, ?_, ?_, ?_, h⟩, ?_, ?_, ⟨?_, broken_damaged h⟩, ?_,
    fun damaged => ⟨coming_front _ _ _, rfl⟩, ⟨coming_front _ _ _, ?_⟩, coming_front _ _ _, ?_⟩ <;> decide +kernel

/-- A REPORTING context, a FREE one, an index at the count, a marked index, and a damaged frame. -/
theorem test_witness_ReadFrameDisposedOf :
    let s := moving 3 { transfer .read 5 4 with taken := 1, marks := 1#256 } keyed
    (ArrivesAlone .media (voidFrame 5 0 0) unlucky ∧ (voidFrame 5 0 0).header.kind.toNat ∈ [2, 6, 7] ∧
      unlucky.contexts[frameTag (voidFrame 5 0 0)].state = .reporting) ∧
    (ArrivesAlone .media (voidFrame 3 0 5) keyed ∧ keyed.contexts[frameTag (voidFrame 3 0 5)].state = .free) ∧
    (ArrivesAlone .media (voidFrame 3 4 9) s ∧ s.contexts[(3 : Tag)].state = .active ∧
      s.contexts[(3 : Tag)].count ≤ (voidFrame 3 4 9).header.index.toNat) ∧
    (ArrivesAlone .media (voidFrame 3 0 5) s ∧ s.contexts[(3 : Tag)].direction = .read ∧
      s.contexts[(3 : Tag)].marks.getLsbD (voidFrame 3 0 5).header.index.toNat = true) ∧
    (ArrivesAlone .media (broken (voidFrame 3 3 8)) s ∧
      (broken (voidFrame 3 3 8)).header.index.toNat < s.contexts[(3 : Tag)].count ∧
      s.contexts[(3 : Tag)].marks.getLsbD (broken (voidFrame 3 3 8)).header.index.toNat = false ∧
      payloadDamaged (broken (voidFrame 3 3 8)) = true ∧ Unencumbered 3 s) ∧
    (∀ f damaged, AtMediaHead f damaged (comingMedia f damaged s) ∧
      (comingMedia f damaged s).contexts[(3 : Tag)] = s.contexts[(3 : Tag)]) ∧
    (AtMediaHead (voidFrame 3 0 5) false (comingMedia (voidFrame 3 0 5) false keyed) ∧
      (comingMedia (voidFrame 3 0 5) false keyed).contexts[(3 : Tag)].state = .free) ∧
    AtMediaHead (voidFrame 5 0 0) true (comingMedia (voidFrame 5 0 0) true unlucky) ∧
      (comingMedia (voidFrame 5 0 0) true unlucky).contexts[(5 : Tag)].state = .reporting := by
  intro s
  refine ⟨?_, ?_, ?_, ?_, ?_, fun f damaged => ⟨coming_media _ _ rfl rfl, rfl⟩, ⟨coming_media _ _ rfl rfl, ?_⟩,
    coming_media _ _ rfl rfl, ?_⟩
  all_goals decide +kernel

/-- Each verdict arises, by the tests of R128 to R131 in hand. -/
theorem test_witness_JudgingTests :
    let s := moving 3 (transfer .read 5 4) keyed
    (voidFrame 3 1 6).header.kind.toNat = 7 ∧ judge (voidFrame 3 1 6) s = .void ∧ judge (voidFrame 3 1 7) s = .mismatch ∧
      judge (readSector 3 0 5) s = .decipher ∧
      judge (readSector 3 0 5) { s with slots := s.slots.set 0 { s.slots[0] with generation := 1 } } = .stale ∧
      judge (shaped 6 3 0 0 5 1 (List.replicate 8 0)) s = .zero := by
  intro s
  constructorm* _ ∧ _ <;> decide +kernel

/-- A frame to decipher, a bypass without room, and a bypass with room for one more. -/
theorem test_witness_ReadFrameJudged :
    let s := moving 3 (transfer .read 5 4) keyed
    let v := voidFrame 3 3 8
    (ArrivesAlone .media (readSector 3 0 5) s ∧ (readSector 3 0 5).header.kind.toNat ∈ [2, 6, 7] ∧
      payloadDamaged (readSector 3 0 5) = false ∧ belongsToRead { frame := readSector 3 0 5, damaged := false } s = true ∧
      judge (readSector 3 0 5) s = .decipher) ∧
    (ArrivesAlone .media v { s with fsq := sixteen } ∧ 16 ≤ { s with fsq := sixteen }.fsq.length) ∧
    (ArrivesAlone .media v { s with fsq := sixteen.tail } ∧ Bypasses (judge v { s with fsq := sixteen.tail }) .void ∧
      { s with fsq := sixteen.tail }.fsq.length < 16 ∧ s.fsqHold = [] ∧
      belongsToRead { frame := v, damaged := false } s = true ∧ payloadDamaged v = false) ∧
    (AtMediaHead (readSector 3 0 5) false (comingMedia (readSector 3 0 5) false s) ∧
      judge (readSector 3 0 5) (comingMedia (readSector 3 0 5) false s) = .decipher ∧
      belongsToRead { frame := readSector 3 0 5, damaged := false } (comingMedia (readSector 3 0 5) false s) = true) ∧
    AtMediaHead v false (comingMedia v false s) ∧ Bypasses (judge v (comingMedia v false s)) .void ∧
      belongsToRead { frame := v, damaged := false } (comingMedia v false s) = true := by
  intro s v
  have h : payloadDamaged (readSector 3 0 5) = false := shaped_undamaged _ _ _ _ _ _ _
  refine ⟨⟨?_, ?_, h, ?_, ?_⟩, ?_, ?_, ⟨coming_media _ _ rfl rfl, ?_, ?_⟩, coming_media _ _ rfl rfl, ?_, ?_⟩ <;>
    decide +kernel

/-- Lane 3 is the only IDLE one; no lane is; no frame waits; and a candidate whose range names no slot. -/
theorem test_witness_LaneJobStarts :
    let q : Queued := { frame := writeSector 2 0 5, damaged := false }
    let x : Lane := .running (writeJob 9)
    let s : State := { waiting with lanes := ((waiting.lanes.set 0 x).set 1 x).set 2 x }
    let full : State := { waiting with lanes := Vector.replicate 4 x }
    let slotless : State := { waiting with ranges := waiting.ranges.set 0 RangeRecord.global }
    (Awake s ∧ s.lanes[(3 : LaneIx)] = .idle ∧ (∀ l' : LaneIx, l' < 3 → s.lanes[l'] ≠ .idle) ∧
      Granted .front q s ∧ s.ranges[lookup s.ranges (s.contexts[frameTag q.frame].start + q.frame.header.index.toNat)].slot =
        some 0) ∧
    (Awake full ∧ ∀ l : LaneIx, full.lanes[l] ≠ .idle) ∧
    (headsWait slotless = false ∧ slotless.inReset = false ∧ (∃ l : LaneIx, slotless.lanes[l] = .idle) ∧ Granted .front q slotless ∧
      slotless.ranges[lookup slotless.ranges
        (slotless.contexts[frameTag q.frame].start + q.frame.header.index.toNat)].slot = none) ∧
    (Awake keyed ∧ ∀ side q, ¬ Waits side q keyed) := by
  intro q x s full slotless
  refine ⟨⟨?_, ?_, ?_, ⟨.inl ⟨rfl, rfl, ?_⟩, .inl rfl⟩, ?_⟩, ⟨?_, ?_⟩, ⟨?_, ?_, ?_, ⟨.inl ⟨rfl, rfl, ?_⟩, .inl rfl⟩, ?_⟩, ?_, ?_⟩
  iterate 13 (decide +kernel)
  · rintro side q (⟨_, h, _⟩ | ⟨_, h, _⟩) <;> cases h

/-- The queues hold fifteen frames, room for one more. -/
theorem test_witness_JobOutputEnters :
    let w : State := { working (transfer .write 5 2) (.running (writeJob 9)) with moq := sixteen.tail }
    let e : State := { working { transfer .write 5 2 with state := .ending } (.running (writeJob 9)) with moq := sixteen.tail }
    let r : State := { working (transfer .read 5 2) (.running (readJob 9)) with fsq := sixteen.tail }
    (Awake w ∧ w.lanes[(2 : LaneIx)] = .running (writeJob 9) ∧
      (writeJob 9).sector = .plain [] ∧ w.contexts[(9 : Tag)].state.running = true ∧ w.moq.length < 16 ∧ w.moqHold = []) ∧
    (Awake e ∧ e.lanes[(2 : LaneIx)] = .running (writeJob 9) ∧
      e.contexts[(9 : Tag)].state = .ending ∧ e.media.link = .up) ∧
    (Awake r ∧ r.lanes[(2 : LaneIx)] = .running (readJob 9) ∧
      (readJob 9).sector = .ciphered [] [] ⟨0, 0, 0, 0⟩ ∧ r.contexts[(9 : Tag)].state.running = true ∧ r.fsq.length < 16 ∧
      r.fsqHold = []) := by
  intro w e r
  constructorm* _ ∧ _ <;> decide +kernel

/-- The queues hold sixteen frames; an ENDING read; an ENDING write while the media link is DOWN; an IDLE lane. -/
theorem test_witness_JobOutputHeldOrDiscarded :
    let w : State := { working (transfer .write 5 2) (.running (writeJob 9)) with moq := sixteen }
    let r : State := { working (transfer .read 5 2) (.running (readJob 9)) with fsq := sixteen }
    let e : State := working { transfer .read 5 2 with state := .ending } (.running (readJob 9))
    let d : State :=
      { working { transfer .write 5 2 with state := .ending } (.running (writeJob 9)) with media := Port.reset }
    (Awake w ∧ w.lanes[(2 : LaneIx)] = .running (writeJob 9) ∧ w.contexts[(9 : Tag)].state.running = true ∧
      16 ≤ w.moq.length) ∧
    (r.lanes[(2 : LaneIx)] = .running (readJob 9) ∧ r.contexts[(9 : Tag)].state.running = true ∧ 16 ≤ r.fsq.length) ∧
    (Awake e ∧ e.lanes[(2 : LaneIx)] = .running (readJob 9) ∧ e.contexts[(9 : Tag)].state = .ending ∧
      (readJob 9).sector = .ciphered [] [] ⟨0, 0, 0, 0⟩) ∧
    (Awake d ∧ d.lanes[(2 : LaneIx)] = .running (writeJob 9) ∧ d.contexts[(9 : Tag)].state = .ending ∧
      d.media.link = .down) ∧
    Awake keyed ∧ keyed.lanes[(2 : LaneIx)] = .idle := by
  intro w r e d
  constructorm* _ ∧ _ <;> decide +kernel

theorem test_witness_FreedPlacesAreGiven :
    let w : State :=
      { working (transfer .write 5 2) (.holding (writeJob 9) (flowFrame .go) .moq) with moq := sixteen.tail, moqHold := [2] }
    let r : State :=
      { working (transfer .read 5 2) (.holding (readJob 9) (flowFrame .go) .fsq) with fsq := sixteen.tail, fsqHold := [2] }
    let q : Queued := { frame := voidFrame 3 1 6, damaged := false }
    (Awake w ∧ w.moqHold = 2 :: [] ∧ w.moq.length < 16 ∧
      w.lanes[(2 : LaneIx)] = .holding (writeJob 9) (flowFrame .go) .moq) ∧
    (Awake r ∧ r.fsqHold = 2 :: [] ∧ r.fsq.length < 16 ∧
      r.lanes[(2 : LaneIx)] = .holding (readJob 9) (flowFrame .go) .fsq) ∧
    (Awake keyed ∧ keyed.moqHold = [] ∧ keyed.fsqHold = [] ∧ 16 ≤ sixteen.length) ∧
    (Awake bypassing ∧ bypassing.miq = q :: [] ∧ bypassing.verdict = some .void ∧
      Bypasses .void .void ∧ belongsToRead q bypassing = true ∧ bypassing.fsq.length < 16 ∧
      bypassing.fsqHold = []) ∧
    Awake keyed ∧ keyed.miq = [] := by
  intro w r q
  constructorm* _ ∧ _ <;> decide +kernel

/-- The expiry may come; the auto-lock timer would be late by then; no deadline; the deadline is due in an idle step. -/
theorem test_witness_IdleDeadlineExpires :
    let s := moving 63 (transfer .read 0 2) keyed
    let late : State := { s with autoLock := some 998999#64 }
    let due : State := { s with time := 1000100#64 }
    (Awake s ∧ s.contexts[(63 : Tag)].deadline = some 1000000#64 ∧ s.contexts[(63 : Tag)].state = .active ∧
      NoneLate (.idle 63) (s.expiryAt 1000000#64) s ∧ Unencumbered 63 s ∧ AtRest s) ∧
    (Awake late ∧ late.contexts[(63 : Tag)].deadline = some 1000000#64 ∧ late.contexts[(63 : Tag)].state = .active ∧
      ¬ NoneLate (.idle 63) (late.expiryAt 1000000#64) late) ∧
    (Awake keyed ∧ keyed.contexts[(0 : Tag)].deadline = none) ∧
    (Awake due ∧ TimersInTime due ∧ FirstDue (.idle 63) due ∧ ∃ u, exec (.idleDeadlineExpiry 63) due = .next u) ∧
    TimersInTime lawful ∧ ∃ t, step lawful = .next t := by
  intro s late due
  unfold NoneLate TimersInTime FirstDue
  simp only [forall_timer, forall_deadline]
  refine ⟨?_, ?_, ?_, ⟨?_, ?_, ⟨⟨1000000#64, ?_, ?_⟩, ?_⟩, _, rfl⟩, ?_, test_lawful_steps⟩
  all_goals decide +kernel

/-- The expiry may come, with no directive and with one that fills a slot, answered or silent; an idle deadline would be late
by then; the timer is stopped; it is due in an idle step. -/
theorem test_witness_AutoLockExpires :
    let s : State := { keyed with autoLock := some 7#64 }
    let f (silent : Bool) : State := { doing (.opening 2 0 []) keyed silent with autoLock := some 7#64 }
    let late : State := { moving 63 { transfer .read 0 2 with deadline := some 6#64 } keyed with autoLock := some 107#64 }
    let due : State := { s with time := 1007#64 }
    (Awake s ∧ s.autoLock = some 7#64 ∧ NoneLate .autoLock (s.expiryAt 7#64) s ∧ filledSlot s = none) ∧
    (∀ silent, (f silent).autoLock = some 7#64 ∧ NoneLate .autoLock ((f silent).expiryAt 7#64) (f silent) ∧
      Runs (.opening 2 0 []) silent [] (entry [6]) [] (f silent) ∧ filledSlot (f silent) = some 2) ∧
    (Awake late ∧ late.autoLock = some 107#64 ∧ ¬ NoneLate .autoLock (late.expiryAt 107#64) late) ∧
    (Awake keyed ∧ keyed.autoLock = none) ∧
    Awake due ∧ TimersInTime due ∧ FirstDue .autoLock due ∧ ∃ u, exec .autoLockExpiry due = .next u := by
  intro s f late due
  unfold NoneLate TimersInTime FirstDue
  simp only [forall_timer, forall_deadline]
  refine ⟨?_, ?_, ?_, ?_, ?_, ?_, ⟨⟨7#64, ?_, ?_⟩, ?_⟩, _, rfl⟩
  all_goals decide +kernel

/-- WARMING and READY, without a fill and with one, answered or silent. -/
theorem test_witness_HealthTestsEnd :
    (Awake linked ∧ linked.random = .warming) ∧ (Awake keyed ∧ keyed.random = .ready) ∧
      (∀ k e g silent, keyed.du ≠ some ⟨.filling k e g, silent⟩) ∧
      ∀ silent, Runs (.filling 2 0 1) silent [] (entry [6]) [] (doing (.filling 2 0 1) keyed silent) := by
  refine ⟨by decide +kernel, by decide +kernel, ?_, by decide +kernel⟩
  intro k e g silent h
  cases h

/-- Codes 0, 15, a QUERY of one byte and one of view 5 with a wrong length, every code with a wrong length, and a damaged
directive; commands that are not the next directive's; an EXECUTING unit and an empty queue. -/
theorem test_witness_DirectivesThatCannotBegin :
    let s (p : Bytes) : State := asked p keyed
    (∀ p ∈ ([[0], [15], [12], [1], [2], [3], [4], [5], [6], [7], [8], [9], [10], [11], [13], [14, 0], [12, 0], [12, 4], [12, 5]] : List Bytes),
      Awake (s p) ∧ (s p).du = none ∧ Next [] (entry p) [] (s p)) ∧
    (param (entry []) 0 = 0 ∧ 14 < param (entry [15]) 0 ∧ param (entry [12]) 0 = 12 ∧
      (entry [12]).frame.payload.length = 1) ∧
    (param (entry [12, 5]) 0 = 12 ∧ 4 < param (entry [12, 5]) 1) ∧
    (param (entry [14, 0]) 0 = 14 ∧ (entry [14, 0]).frame.header.length.toNat ≠ 1) ∧
    (param (entry [14, 0]) 0 ≠ 13 ∧ param (entry [14, 0]) 0 ≠ 12 ∧ 1 ≤ param (entry [14, 0]) 0 ∧
      param (entry [14, 0]) 0 ≤ 14) ∧
    (param (entry [12, 4]) 1 ≠ 3 ∧ param (entry [12, 4]) 1 ≤ 4) ∧
    (param (entry [12, 4]) 0 = 12 ∧ 2 ≤ (entry [12, 4]).frame.payload.length ∧ param (entry [12, 4]) 1 = 4 ∧
      (entry [12, 4]).frame.header.length.toNat ≠ 3) ∧
    { entry [14] with damaged := true }.damaged = true ∧
    (Awake (doing (.filling 2 0 1) keyed) ∧ (doing (.filling 2 0 1) keyed).du ≠ none) ∧ Awake keyed ∧
    ∀ e ∈ keyed.drq, e.executed = true := by
  intro s
  constructorm* _ ∧ _ <;> decide +kernel

/-- Range 15 from 20 to the ceiling, range 0, and the disabling of range 1, with a transfer elsewhere. -/
theorem test_witness_RangesDefinedAndDisabled :
    let d := defining 15 0xFF 0x1F 20 (2 ^ 40 - 20)
    let z := defining 0 15 0 0 0
    let open10 := moving 4 (transfer .read 10 10) keyed
    let open9 := moving 4 (transfer .read 9 1) keyed
    (Ready 1 24 [] (entry d) [] (asked d open10) ∧ param (entry d) 1 = 15 ∧ param (entry d) 2 = 255 ∧
      1 ≤ field d 10 6 ∧ field d 5 5 + field d 10 6 ≤ keyed.limits.ceiling ∧
      (∀ j : RangeIx, j ≠ 0 → j ≠ 15 → keyed.ranges[j].enabled = true →
        ¬ Meets keyed.ranges[j].start (keyed.ranges[j].start + keyed.ranges[j].length) (field d 5 5)
          (field d 5 5 + field d 10 6)) ∧
      ¬ SpanMeets (field d 5 5) (field d 5 5 + field d 10 6) (asked d open10)) ∧
    (Ready 1 24 [] (entry z) [] (asked z open10) ∧ param (entry z) 1 = 0 ∧ param (entry z) 2 < 16 ∧
      ∀ t : Tag, open10.contexts[t].state.isOpen = true →
        ∀ i < open10.contexts[t].count, lookup open10.ranges (open10.contexts[t].start + i) ≠ 0) ∧
    (Ready 2 2 [] (entry [2, 1]) [] (asked [2, 1] open9) ∧ param (entry [2, 1]) 1 = (1 : RangeIx).val ∧
      ¬ SpanMeets keyed.ranges[1].start (keyed.ranges[1].start + keyed.ranges[1].length) (asked [2, 1] open9)) := by
  intro d z open10 open9
  constructorm* _ ∧ _ <;> decide +kernel

/-- Each check of Table 2-3 and of R32 as the first that fails. -/
theorem test_witness_RangeDirectivesRefused :
    let ask (p : Bytes) (s : State) : Prop := Ready 1 24 [] (entry p) [] (asked p s)
    let busy := moving 4 (transfer .read 30 10) keyed
    let busy0 := moving 4 (transfer .read 9 1) keyed
    let busy1 := moving 4 (transfer .read 19 1) keyed
    (ask (defining 16 0 0 20 1) keyed ∧ 15 < param (entry (defining 16 0 0 20 1)) 1) ∧
    (ask (defining 2 16 0 20 1) keyed ∧ 16 ≤ param (entry (defining 2 16 0 20 1)) 2 ∧
      param (entry (defining 2 0xFE 0 20 1)) 2 ≠ 255) ∧
    (ask (defining 2 0 0 20 0) keyed ∧ field (defining 2 0 0 20 0) 10 6 = 0) ∧
    (ask (defining 2 0 0 20 (2 ^ 40 - 19)) keyed ∧ keyed.limits.ceiling < 20 + field (defining 2 0 0 20 (2 ^ 40 - 19)) 10 6) ∧
    (ask (defining 2 0 0 0 11) keyed ∧
      ∃ j : RangeIx, j ≠ 0 ∧ j ≠ 2 ∧ keyed.ranges[j].enabled = true ∧
        Meets keyed.ranges[j].start (keyed.ranges[j].start + keyed.ranges[j].length) 0 11) ∧
    (ask (defining 2 0 0 39 1) busy ∧ SpanMeets 39 40 busy) ∧
    (ask (defining 1 0 0 50 1) busy1 ∧ busy1.ranges[1].enabled = true ∧ SpanMeets 10 20 busy1) ∧
    (ask (defining 0 0 0 0 0) busy0 ∧ ∃ t : Tag, busy0.contexts[t].state.isOpen = true ∧
      ∃ i < busy0.contexts[t].count, lookup busy0.ranges (busy0.contexts[t].start + i) = 0) ∧
    (Ready 2 2 [] (entry [2, 0]) [] (asked [2, 0] keyed) ∧ param (entry [2, 0]) 1 = 0 ∧
      Ready 2 2 [] (entry [2, 16]) [] (asked [2, 16] keyed) ∧ 15 < param (entry [2, 16]) 1) ∧
    (Ready 2 2 [] (entry [2, 1]) [] (asked [2, 1] busy1) ∧ SpanMeets 10 20 (asked [2, 1] busy1)) := by
  intro ask busy busy0 busy1
  constructorm* _ ∧ _ <;> decide +kernel

theorem test_witness_SetLocksWritesTwoFields :
    (Ready 3 3 [] (entry [3, 15, 3]) [] (asked [3, 15, 3] keyed) ∧ param (entry [3, 15, 3]) 1 = (15 : RangeIx).val) ∧
    (Ready 3 3 [] (entry [3, 16, 3]) [] (asked [3, 16, 3] keyed) ∧ 15 < param (entry [3, 16, 3]) 1) := by
  constructorm* _ ∧ _ <;> decide +kernel

theorem test_witness_WrappingKeysSetAndCleared :
    let p (n : Byte) : Bytes := [4, n] ++ List.replicate 64 1
    (Ready 4 66 [] (entry (p 3)) [] (asked (p 3) keyed) ∧ param (entry (p 3)) 1 = (3 : EntryIx).val) ∧
    (Ready 4 66 [] (entry (p 4)) [] (asked (p 4) keyed) ∧ 3 < param (entry (p 4)) 1) ∧
    (Ready 5 2 [] (entry [5, 3]) [] (asked [5, 3] keyed) ∧ param (entry [5, 3]) 1 = (3 : EntryIx).val) ∧
    (Ready 5 2 [] (entry [5, 4]) [] (asked [5, 4] keyed) ∧ 3 < param (entry [5, 4]) 1) := by
  intro p
  constructorm* _ ∧ _ <;>
    first
    | exact ready_asked _ _ (by decide +kernel) (by decide +kernel) (by decide +kernel) (by decide +kernel) (by decide)
    | decide +kernel

theorem test_witness_SlotsBeginToFill :
    let r : Bytes := [7, 15, 0, 1] ++ List.replicate 95 0
    (param (entry [6, 15, 0, 1, 0]) 1 = (15 : SlotIx).val ∧ param (entry [6, 15, 0, 1, 0]) 2 = (0 : EntryIx).val ∧
      keyed.slots[(15 : SlotIx)].state = .empty ∧ keyed.wrapping[(0 : EntryIx)] ≠ none ∧ keyed.random ≠ .failed ∧
      Ready 6 5 [] (entry [6, 15, 0, 1, 0]) [] (asked [6, 15, 0, 1, 0] keyed)) ∧
    (Ready 7 99 [] (entry r) [] (asked r keyed) ∧ param (entry r) 1 = (15 : SlotIx).val ∧
      param (entry r) 2 = (0 : EntryIx).val ∧ param (entry r) 3 = 1) := by
  intro r
  constructorm* _ ∧ _ <;>
    first
    | exact ready_asked _ _ (by decide +kernel) (by decide +kernel) (by decide +kernel) (by decide +kernel) (by decide)
    | decide +kernel

/-- Each check of R53 to R55 as the first that fails. -/
theorem test_witness_KeyDirectivesRefused :
    let failed : State := { keyed with random := .failed }
    let r (k n v : Byte) : Bytes := [7, k, n, v] ++ List.replicate 95 0
    (Ready 6 5 [] (entry [6, 16, 0, 0, 0]) [] (asked [6, 16, 0, 0, 0] keyed) ∧ 15 < param (entry [6, 16, 0, 0, 0]) 1 ∧
      Ready 7 99 [] (entry (r 0 4 1)) [] (asked (r 0 4 1) keyed) ∧ 3 < param (entry (r 0 4 1)) 2 ∧
      Ready 8 6 [] (entry [8, 0, 0, 9, 0, 2]) [] (asked [8, 0, 0, 9, 0, 2] keyed) ∧
      1 < param (entry [8, 0, 0, 9, 0, 2]) 5) ∧
    (Ready 6 5 [] (entry [6, 0, 0, 0, 0]) [] (asked [6, 0, 0, 0, 0] keyed) ∧ keyed.slots[(0 : SlotIx)].state ≠ .empty ∧
      Ready 8 6 [] (entry [8, 2, 0, 9, 0, 1]) [] (asked [8, 2, 0, 9, 0, 1] keyed) ∧
      keyed.slots[(2 : SlotIx)].state ≠ .ready) ∧
    (keyed.slots[(2 : SlotIx)].state = .empty ∧ keyed.wrapping[(1 : EntryIx)] = none ∧
      keyed.slots[(0 : SlotIx)].state = .ready) ∧
    (Ready 6 5 [] (entry [6, 2, 0, 0, 0]) [] (asked [6, 2, 0, 0, 0] failed) ∧ failed.wrapping[(0 : EntryIx)] ≠ none ∧
      failed.random = .failed) ∧
    (Ready 7 99 [] (entry (r 2 0 2)) [] (asked (r 2 0 2) keyed) ∧ param (entry (r 2 0 2)) 3 ≠ 1) ∧
    (Ready 8 6 [] (entry [8, 1, 0, 3, 0, 1]) [] (asked [8, 1, 0, 3, 0, 1] keyed) ∧
      keyed.slots[(1 : SlotIx)].generation = BitVec.ofNat 16 (field (entry [8, 1, 0, 3, 0, 1]).frame.payload 3 2)) ∧
    (Ready 9 3 [] (entry [9, 16, 0]) [] (asked [9, 16, 0] keyed) ∧ 15 < param (entry [9, 16, 0]) 1 ∧
      Ready 9 3 [] (entry [9, 0, 2]) [] (asked [9, 0, 2] keyed) ∧ 1 < param (entry [9, 0, 2]) 2 ∧
      Ready 9 3 [] (entry [9, 2, 1]) [] (asked [9, 2, 1] keyed) ∧ keyed.slots[(2 : SlotIx)].state ≠ .ready) := by
  intro failed r
  constructorm* _ ∧ _ <;>
    first
    | exact ready_asked _ _ (by decide +kernel) (by decide +kernel) (by decide +kernel) (by decide +kernel) (by decide)
    | decide +kernel

/-- A fill with its entry filled and with it EMPTY, a record to be wrapped, and records that open, each answered or silent; a
record that does not open. -/
theorem test_witness_KeyComputationsEnd :
    (∀ silent, Runs (.filling 2 0 1) silent [] (entry [6]) [] (doing (.filling 2 0 1) keyed silent) ∧
      (doing (.filling 2 0 1) keyed silent).random = .ready ∧
      Runs (.wrapping 2 0 1 7 8 9) silent [] (entry [6]) [] (doing (.wrapping 2 0 1 7 8 9) keyed silent)) ∧
    (keyed.wrapping[(1 : EntryIx)] = none ∧ keyed.wrapping[(0 : EntryIx)] = some { halfA := 5, halfB := 6 }) ∧
    (let w : WrappingKey := { halfA := 5, halfB := 6 }
     (∀ silent, Runs (.opening 2 0 (openable w)) silent [] (entry [6]) [] (doing (.opening 2 0 (openable w)) keyed silent)) ∧
      (∃ dataKey tweakKey g, openRecord w (openable w) = some (dataKey, tweakKey, g)) ∧
      ∃ record, Runs (.opening 2 0 record) false [] (entry [6]) [] (doing (.opening 2 0 record) keyed) ∧
        openRecord w record = none) := by
  refine ⟨by decide +kernel, by decide +kernel, ?_, ⟨_, _, _, openable_opens _⟩, ?_⟩
  · intro silent
    cases silent <;> exact ⟨by decide +kernel, rfl, by decide +kernel⟩
  · refine ⟨[], ⟨by decide +kernel, rfl, by decide +kernel⟩, ?_⟩
    unfold openRecord
    rw [if_neg]
    intro h
    have hl := congrArg List.length h
    rw [checkBlock, bytesOfBlock_length] at hl
    cases hl

/-- Slot 1 while a transfer uses slot 0. -/
theorem test_witness_UnusedSlotDrainsAtOnce :
    let s := moving 4 (transfer .read 9 1) keyed
    (param (entry [8, 1, 0, 4, 0, 1]) 1 = (1 : SlotIx).val ∧ s.slots[(1 : SlotIx)].state = .ready ∧
      (∀ t : Tag, s.contexts[t].state.isOpen = true → ∀ i < s.contexts[t].count,
        ¬ (s.ranges[lookup s.ranges (s.contexts[t].start + i)].enabled = true ∧
          s.ranges[lookup s.ranges (s.contexts[t].start + i)].slot = some 1))) ∧
    (Ready 8 6 [] (entry [8, 1, 0, 4, 0, 1]) [] (asked [8, 1, 0, 4, 0, 1] s) ∧
      param (entry [8, 1, 0, 4, 0, 1]) 2 = (0 : EntryIx).val ∧ param (entry [8, 1, 0, 4, 0, 1]) 5 ≤ 1 ∧
      s.wrapping[(0 : EntryIx)] ≠ none ∧ s.random ≠ .failed ∧
      s.slots[(1 : SlotIx)].generation ≠ BitVec.ofNat 16 (field (entry [8, 1, 0, 4, 0, 1]).frame.payload 3 2)) ∧
    (Ready 9 3 [] (entry [9, 1, 1]) [] (asked [9, 1, 1] s) ∧ param (entry [9, 1, 1]) 2 ≤ 1) := by
  intro s
  constructorm* _ ∧ _ <;> decide +kernel

/-- The transfer of `drainingState` alone is in the drain set, has ended, and has its last job in flight. -/
def drained (goal : DrainGoal) (silent : Bool) (random : RandomState) : State :=
  { doing (.draining 0 goal none) (moving 9 { transfer .read 5 2 with state := .ending, taken := 1, jobs := 1 } drainingState)
      silent with
    lanes := drainingState.lanes.set 2 (.running (readJob 9)), random := random }

/-- Slot 0 with a job of the transfer in flight, in either mode; the running drain timer, which may expire; one that must wait
for the auto-lock timer; no timer; and the timer due in an idle step. -/
theorem test_witness_SlotInUseDrains :
    let s := working (transfer .write 5 2) (.running (writeJob 9))
    let p : Bytes := [8, 0, 0, 4, 0, 0]
    let late : State := { drainingState with autoLock := some 3999#64 }
    let due : State := { drainingState with time := 6000#64 }
    (s.slots[(0 : SlotIx)].state = .ready ∧ drainSetOf 0 s = [9] ∧ Ready 8 6 [] (entry p) [] (asked p s) ∧
      param (entry p) 1 = (0 : SlotIx).val ∧ param (entry p) 2 = (0 : EntryIx).val ∧ param (entry p) 5 = 0 ∧
      s.wrapping[(0 : EntryIx)] ≠ none ∧ s.random ≠ .failed ∧
      s.slots[(0 : SlotIx)].generation ≠ BitVec.ofNat 16 (field (entry p).frame.payload 3 2)) ∧
    (Ready 9 3 [] (entry [9, 0, 1]) [] (asked [9, 0, 1] s) ∧ param (entry [9, 0, 1]) 2 = 1) ∧
    (s.fiq = [] ∧ s.miq = [] ∧ (∀ l : LaneIx, heldRead s.lanes[l] = none) ∧ ∀ t ∈ drainSetOf 0 s, s.contexts[t].jobs ≠ 0) ∧
    (Awake drainingState ∧ drainingState.du = some ⟨.draining 0 .discard (some 5000#64), false⟩ ∧
      NoneLate .drain (drainingState.expiryAt 5000#64) drainingState ∧
      drainingState.fiq = [] ∧ drainingState.miq = [] ∧ (∀ l : LaneIx, heldRead drainingState.lanes[l] = none) ∧
      ∀ t ∈ drainingState.slots[(0 : SlotIx)].drainSet, drainingState.contexts[t].jobs ≠ 0) ∧
    (Awake late ∧ late.du = some ⟨.draining 0 .discard (some 5000#64), false⟩ ∧
      ¬ NoneLate .drain (late.expiryAt 5000#64) late) ∧
    (Awake keyed ∧ ∀ k goal d silent, keyed.du ≠ some ⟨.draining k goal (some d), silent⟩) ∧
    Awake due ∧ TimersInTime due ∧ FirstDue .drain due ∧ ∃ u, exec .drainTimerExpiry due = .next u := by
  intro s p late due
  unfold NoneLate TimersInTime FirstDue
  simp only [forall_timer, forall_deadline]
  refine ⟨?_, ?_, ?_, ?_, ?_, ⟨?_, fun k goal d silent h => ?_⟩, ?_, ?_, ⟨⟨5000#64, ?_, ?_⟩, ?_⟩, _, rfl⟩
  all_goals first | decide +kernel | cases h

/-- A context that is in no drain set, one of two, and the last, whose last job completes: each goal, with the source READY and
FAILED, answered and silent. -/
theorem test_witness_SlotInUseDrains_completion :
    (∀ k goal timer silent, keyed.du ≠ some ⟨.draining k goal timer, silent⟩) ∧
    (let two : State := { drainingState with slots := drainingState.slots.set 0 { drainingState.slots[0] with drainSet := [9, 4] } }
     (9 : Tag) ∈ two.slots[(0 : SlotIx)].drainSet ∧ two.slots[(0 : SlotIx)].drainSet.filter (fun i => i ≠ 9) ≠ []) ∧
    ∀ goal ∈ [DrainGoal.discard, .rekey 0 4], ∀ silent, ∀ random ∈ [RandomState.ready, .failed],
      let s := drained goal silent random
      Runs (.draining 0 goal none) silent [] (entry [6]) [] s ∧ s.random = random ∧ s.lanes[(2 : LaneIx)] = .running (readJob 9) ∧
      (readJob 9).sector = .ciphered [] [] ⟨0, 0, 0, 0⟩ ∧ s.contexts[(readJob 9).tag].state = .ending ∧
      s.contexts[(readJob 9).tag].suppressed = false ∧ s.contexts[(readJob 9).tag].jobs = 1 ∧
      s.slots[(0 : SlotIx)].drainSet = [(readJob 9).tag] := by
  refine ⟨fun k goal timer silent h => ?_, ?_, ?_⟩
  · cases h
  all_goals decide +kernel

/-- A transfer with nothing to clear away, and one whose READ output a lane holds. -/
theorem test_witness_AbandonTransferEnds :
    let s := asked [10, 63] (moving 63 (transfer .read 0 2) keyed)
    let h := asked [10, 9] { working (transfer .read 5 2) (.holding (readJob 9) (flowFrame .go) .fsq) with fsqHold := [2] }
    (Ready 10 2 [] (entry [10, 9]) [] h ∧ param (entry [10, 9]) 1 = (9 : Tag).val ∧
      h.contexts[(9 : Tag)].state.running = true ∧ ¬ Unencumbered 9 h) ∧
    (Ready 10 2 [] (entry [10, 63]) [] s ∧ param (entry [10, 63]) 1 = (63 : Tag).val ∧
      s.contexts[(63 : Tag)].state.running = true ∧ Unencumbered 63 s ∧ AtRest s) ∧
    (Ready 10 2 [] (entry [10, 4]) [] (asked [10, 4] keyed) ∧ keyed.contexts[(4 : Tag)].state.running = false) ∧
    (Ready 10 2 [] (entry [10, 64]) [] (asked [10, 64] keyed) ∧ 63 < param (entry [10, 64]) 1) := by
  intro s h
  constructorm* _ ∧ _ <;> decide +kernel

/-- A SET LIMITS payload. -/
def limiting (ceiling : Nat) (selector : Byte) : Bytes :=
  [11] ++ leBytes 6 ceiling ++ [12, 4, 12, 4] ++ leBytes 2 0 ++ leBytes 2 0 ++ [selector] ++ leBytes 2 0

/-- Ceilings 0, 2^40 + 1 and 2^40, selector 8; ceiling 19 below the end of range 1, and 20 at it; an open span. -/
theorem test_witness_SetLimitsStores :
    (∀ p ∈ [limiting 0 0, limiting (2 ^ 40 + 1) 0, limiting (2 ^ 40) 7, limiting 20 8, limiting 19 0, limiting 20 7],
      Ready 11 18 [] (entry p) [] (asked p keyed)) ∧
    (field (limiting 0 0) 1 6 = 0 ∧ 2 ^ 40 < field (limiting (2 ^ 40 + 1) 0) 1 6 ∧ 7 < param (entry (limiting 20 8)) 15) ∧
    (∃ k : RangeIx, k ≠ 0 ∧ keyed.ranges[k].enabled = true ∧ 19 < keyed.ranges[k].start + keyed.ranges[k].length) ∧
    (¬ (field (limiting 20 7) 1 6 = 0 ∨ 2 ^ 40 < field (limiting 20 7) 1 6 ∨ 7 < param (entry (limiting 20 7)) 15) ∧
      ¬ ((∃ k : RangeIx, k ≠ 0 ∧ keyed.ranges[k].enabled = true ∧ 20 < keyed.ranges[k].start + keyed.ranges[k].length) ∨
        ∃ t : Tag, keyed.contexts[t].state.isOpen = true ∧ 20 < keyed.contexts[t].start + keyed.contexts[t].count)) := by
  constructorm* _ ∧ _ <;> decide +kernel

theorem test_witness_QueriesAnswer :
    ∀ p ∈ ([[12, 0, 0], [12, 1, 15], [12, 1, 16], [12, 2, 15], [12, 2, 16], [12, 3, 63], [12, 3, 64], [12, 4, 0],
        [12, 5, 0]] : List Bytes), Ready 12 3 [] (entry p) [] (asked p keyed) := by decide +kernel

theorem test_witness_ClearEventsClears :
    Ready 13 3 [] (entry [13, 0xFF, 0x7F]) [] (asked [13, 0xFF, 0x7F] keyed) := by
  decide +kernel

theorem test_witness_ResetEngineResets : Ready 14 1 [] (entry [14]) [] (asked [14] keyed) := by
  decide +kernel

end Sys2Proof.Tests
end

section
/-! PROOFS. The sector transform (R6 to R14): the doubling of tweaks, the full blocks and the stolen tail of a region in
both directions, the tweak offset and the seed. -/

namespace Sys2Proof.Machine

/-! ### Numbers and slices of byte sequences -/

/-- Numbers that fit in `k` bytes are told apart by them. -/
theorem leBytes_inj {k m n : Nat} (hm : m < 256 ^ k) (hn : n < 256 ^ k) (h : leBytes k m = leBytes k n) : m = n := by
  have hv : leNat (leBytes k m) = leNat (leBytes k n) := by rw [h]
  rwa [leNat_leBytes, leNat_leBytes, Nat.mod_eq_of_lt hm, Nat.mod_eq_of_lt hn] at hv

/-- The bytes of a block hold its number. -/
@[simp] theorem leNat_bytesOfBlock (b : Block) : leNat (bytesOfBlock b) = b.toNat := by
  rw [bytesOfBlock, leNat_leBytes]
  exact Nat.mod_eq_of_lt b.isLt

/-- A block is read from the first sixteen bytes alone. -/
theorem blockOfBytes_take (bs : Bytes) : blockOfBytes (bs.take 16) = blockOfBytes bs := by
  simp [blockOfBytes, List.take_take]

/-- A slice behind the first `n` bytes, its offset counted from the beginning. -/
theorem slice_drop (bs : Bytes) (n off len : Nat) : slice (bs.drop n) off len = slice bs (n + off) len := by
  rw [slice, slice, List.drop_drop]

/-- The second part of a concatenation is the slice at the length of the first. -/
theorem slice_append_length {xs ys : Bytes} {off len : Nat} (hx : xs.length = off) (hy : ys.length = len) :
    slice (xs ++ ys) off len = ys := by
  have h := slice_append_right xs ys 0 len
  rwa [Nat.add_zero, hx, slice_zero, List.take_of_length_le hy.le] at h

/-! ### The doubling of tweaks (R9) -/

/-- The bit that doubling shifts out is the bit of 2^127. -/
theorem getMsbD_zero_eq_decide (t : Block) : t.getMsbD 0 = decide (2 ^ 127 ≤ t.toNat) :=
  BitVec.msb_eq_decide t

/-- The double of a tweak as a number (R9). -/
theorem toNat_double (t : Block) :
    (double t).toNat =
      if 2 ^ 127 ≤ t.toNat then (2 * t.toNat) % 2 ^ 128 ^^^ 0x87 else (2 * t.toNat) % 2 ^ 128 := by
  have hshift : (t <<< 1).toNat = (2 * t.toNat) % 2 ^ 128 := by
    rw [BitVec.toNat_shiftLeft, Nat.shiftLeft_eq, Nat.mul_comm, Nat.pow_one]
  rw [double, BitVec.toNat_xor, hshift, getMsbD_zero_eq_decide]
  by_cases h : 2 ^ 127 ≤ t.toNat
  · simp only [h, decide_true, if_true, BitVec.toNat_ofNat]
  · simp only [h, decide_false, if_false, BitVec.toNat_ofNat, Bool.false_eq_true, Nat.zero_mod, Nat.xor_zero]

/-- The bit that doubling shifts out comes back as bit 0, for 87h is odd. -/
theorem getLsbD_double_zero (t : Block) : (double t).getLsbD 0 = t.getMsbD 0 := by
  cases h : t.getMsbD 0 <;> simp [double, h]

/-- Tweaks with one double lose the same bit in the shift, and agree in every bit that the shift keeps. -/
theorem double_injective : Function.Injective double := by
  intro a b hab
  have hmsb : a.getMsbD 0 = b.getMsbD 0 := by rw [← getLsbD_double_zero, hab, getLsbD_double_zero]
  have hshift : a <<< 1 = b <<< 1 := by
    rw [double, double, hmsb] at hab
    exact (BitVec.xor_left_inj _).mp hab
  apply BitVec.eq_of_getLsbD_eq
  intro i hi
  by_cases htop : i = 127
  · subst htop
    exact hmsb
  · have hbit : (a <<< 1).getLsbD (i + 1) = (b <<< 1).getLsbD (i + 1) := by rw [hshift]
    have hlt : i + 1 < 128 := by omega
    simpa only [BitVec.getLsbD_shiftLeft, hlt, decide_true, Bool.true_and, Nat.add_sub_cancel,
      Nat.not_lt_of_le (Nat.le_add_left 1 i), decide_false, Bool.not_false] using hbit

theorem double_bijective : Function.Bijective double :=
  Finite.injective_iff_bijective.mp double_injective

@[simp] theorem double_zero : double 0 = 0 := by decide

@[simp] theorem tweakAt_zero (t : Block) : tweakAt t 0 = t := rfl

theorem tweakAt_succ (t : Block) (j : Nat) : tweakAt t (j + 1) = double (tweakAt t j) := rfl

/-- The sequence that begins one tweak later is the same sequence one tweak on. -/
theorem tweakAt_double (t : Block) (j : Nat) : tweakAt (double t) j = tweakAt t (j + 1) := by
  induction j with
  | zero => rfl
  | succ j ih => rw [tweakAt_succ, ih, ← tweakAt_succ]

theorem tweakAt_of_zero (j : Nat) : tweakAt 0 j = 0 := by
  induction j with
  | zero => rfl
  | succ j ih => rw [tweakAt_succ, ih, double_zero]

/-- Settles O14: doubling as a number, and as an injection of a finite type into itself. -/
theorem tweaksAreDoubled : Obligations.TweaksAreDoubled := by
  refine ⟨fun t => ?_, double_bijective, double_zero, tweakAt_zero, tweakAt_succ, tweakAt_of_zero⟩
  simp only [leNat_bytesOfBlock]
  exact toNat_double t

/-! ### Full blocks and the stolen tail (R11 to R14) -/

@[simp] theorem cipherBlocks_length (p : Equiv.Perm Block) (q : Nat) (t : Block) (bs : Bytes) :
    (cipherBlocks p q t bs).length = 16 * q := by
  induction q generalizing t bs with
  | zero => rfl
  | succ q ih =>
    rw [cipherBlocks, List.length_append, bytesOfBlock_length, ih]
    omega

/-- Block `j` of the full blocks is block `j` of the region under tweak `j`. -/
theorem slice_cipherBlocks (p : Equiv.Perm Block) {q j : Nat} (t : Block) (bs : Bytes) (hj : j < q) :
    slice (cipherBlocks p q t bs) (16 * j) 16 =
      bytesOfBlock (cipherBlock p (tweakAt t j) (blockOfBytes (slice bs (16 * j) 16))) := by
  induction q generalizing t bs j with
  | zero => omega
  | succ q ih =>
    cases j with
    | zero =>
      rw [cipherBlocks, slice_append_left _ _ (by rw [bytesOfBlock_length]), Nat.mul_zero, slice_zero, slice_zero,
        List.take_of_length_le (by rw [bytesOfBlock_length]), blockOfBytes_take, tweakAt_zero]
    | succ j =>
      have hr := slice_append_right (bytesOfBlock (cipherBlock p t (blockOfBytes bs)))
        (cipherBlocks p q (double t) (bs.drop 16)) (16 * j) 16
      have ho : 16 * (j + 1) = 16 + 16 * j := by omega
      rw [bytesOfBlock_length] at hr
      rw [cipherBlocks, ho, hr, ih (double t) (bs.drop 16) (Nat.lt_of_succ_lt_succ hj), tweakAt_double, slice_drop]

@[simp] theorem stealTail_length (p : Equiv.Perm Block) (first second : Block) (bs : Bytes) :
    (stealTail p first second bs).length = 24 := by
  simp [stealTail]

/-- Tail stealing on the last full block and the tail of a region of `q` full blocks and a tail. -/
theorem stealTail_drop (p : Equiv.Perm Block) (first second : Block) (region : Bytes) {q : Nat} (hq : 1 ≤ q) :
    stealTail p first second (region.drop (16 * (q - 1))) =
      let mid := bytesOfBlock (cipherBlock p first (blockOfBytes (slice region (16 * (q - 1)) 16)))
      bytesOfBlock (cipherBlock p second (blockOfBytes (slice region (16 * q) 8 ++ mid.drop 8))) ++ mid.take 8 := by
  have ho : 16 * (q - 1) + 16 = 16 * q := by omega
  rw [stealTail, slice_drop, ho]
  rfl

/-- A region of `q` full blocks, forward (R11). -/
theorem cipherRegion_of_full (p : Equiv.Perm Block) (t0 : Block) {region : Bytes} {q : Nat}
    (h : region.length = 16 * q) : cipherRegion p t0 region = cipherBlocks p q t0 region := by
  have hq : region.length / 16 = q := by omega
  have hm : region.length % 16 = 0 := by omega
  simp only [cipherRegion, hq, hm, if_true]

/-- A region of `q` full blocks, inverse (R13). -/
theorem decipherRegion_of_full (p : Equiv.Perm Block) (t0 : Block) {region : Bytes} {q : Nat}
    (h : region.length = 16 * q) : decipherRegion p t0 region = cipherBlocks p.symm q t0 region := by
  have hq : region.length / 16 = q := by omega
  have hm : region.length % 16 = 0 := by omega
  simp only [decipherRegion, hq, hm, if_true]

/-- A region with a tail, forward: tweak q − 1 before tweak q (R12). -/
theorem cipherRegion_of_tail (p : Equiv.Perm Block) (t0 : Block) {region : Bytes} {q : Nat}
    (h : region.length = 16 * q + 8) :
    cipherRegion p t0 region = cipherBlocks p (q - 1) t0 region ++
      stealTail p (tweakAt t0 (q - 1)) (tweakAt t0 q) (region.drop (16 * (q - 1))) := by
  have hq : region.length / 16 = q := by omega
  have hm : region.length % 16 ≠ 0 := by omega
  simp only [cipherRegion, hq, hm, if_false]

/-- A region with a tail, inverse: tweak q before tweak q − 1 (R14). -/
theorem decipherRegion_of_tail (p : Equiv.Perm Block) (t0 : Block) {region : Bytes} {q : Nat}
    (h : region.length = 16 * q + 8) :
    decipherRegion p t0 region = cipherBlocks p.symm (q - 1) t0 region ++
      stealTail p.symm (tweakAt t0 q) (tweakAt t0 (q - 1)) (region.drop (16 * (q - 1))) := by
  have hq : region.length / 16 = q := by omega
  have hm : region.length % 16 ≠ 0 := by omega
  simp only [decipherRegion, hq, hm, if_false]

/-- Full blocks and a stolen tail after them have the length of a region of `q` full blocks and a tail. -/
theorem blocks_stealTail_length (p : Equiv.Perm Block) (t first second : Block) (region bs : Bytes) {q : Nat}
    (hq : 1 ≤ q) : (cipherBlocks p (q - 1) t region ++ stealTail p first second bs).length = 16 * q + 8 := by
  rw [List.length_append, cipherBlocks_length, stealTail_length]
  omega

/-- A stolen tail after them leaves the full blocks as they are. -/
theorem slice_blocks_stealTail (p : Equiv.Perm Block) (t first second : Block) (region bs : Bytes) {n j : Nat}
    (hj : j < n) :
    slice (cipherBlocks p n t region ++ stealTail p first second bs) (16 * j) 16 =
      bytesOfBlock (cipherBlock p (tweakAt t j) (blockOfBytes (slice region (16 * j) 16))) := by
  rw [slice_append_left _ _ (by rw [cipherBlocks_length]; omega), slice_cipherBlocks p t region hj]

/-- The last 24 bytes of full blocks and a stolen tail are the stolen tail. -/
theorem slice_stealTail (p : Equiv.Perm Block) (t first second : Block) (region bs : Bytes) (n : Nat) :
    slice (cipherBlocks p n t region ++ stealTail p first second bs) (16 * n) 24 = stealTail p first second bs :=
  slice_append_length (cipherBlocks_length ..) (stealTail_length ..)

/-- Neither direction changes the length of a region of full blocks, or of at least one full block and a tail. -/
theorem region_lengths (p : Equiv.Perm Block) (t0 : Block) {region : Bytes} {q : Nat}
    (h : region.length = 16 * q ∨ (region.length = 16 * q + 8 ∧ 1 ≤ q)) :
    (cipherRegion p t0 region).length = region.length ∧ (decipherRegion p t0 region).length = region.length := by
  obtain hfull | ⟨htail, hq⟩ := h
  · rw [cipherRegion_of_full p t0 hfull, decipherRegion_of_full p t0 hfull, cipherBlocks_length, cipherBlocks_length,
      hfull]
    exact ⟨rfl, rfl⟩
  · rw [cipherRegion_of_tail p t0 htail, decipherRegion_of_tail p t0 htail, htail]
    exact ⟨blocks_stealTail_length p _ _ _ _ _ hq, blocks_stealTail_length p.symm _ _ _ _ _ hq⟩

/-- Settles O15: a region is its full blocks, followed by the stolen tail where it has one, and the slices of the two parts
are known. -/
theorem blocksAndTailUnderTheirTweaks : Obligations.BlocksAndTailUnderTheirTweaks := by
  refine ⟨fun i plain region clear => ⟨rfl, rfl, rfl⟩, fun p t0 region q => ⟨region_lengths p t0, ?full, ?tail⟩⟩
  case full =>
    intro h j hj
    rw [cipherRegion_of_full p t0 h, decipherRegion_of_full p t0 h]
    exact ⟨slice_cipherBlocks p t0 region hj, slice_cipherBlocks p.symm t0 region hj⟩
  case tail =>
    intro h hq
    rw [cipherRegion_of_tail p t0 h, decipherRegion_of_tail p t0 h]
    refine ⟨fun j hj => ⟨slice_blocks_stealTail p _ _ _ _ _ hj, slice_blocks_stealTail p.symm _ _ _ _ _ hj⟩, ?_, ?_⟩
    · exact (slice_stealTail ..).trans (stealTail_drop p _ _ region hq)
    · exact (slice_stealTail ..).trans (stealTail_drop p.symm _ _ region hq)

/-! ### The tweak offset and the seed (R6, R7) -/

/-- A lookup that returns a range 1 to 15 returns one that holds the LBA (R24). -/
theorem holds_of_lookup_eq {rt : Vector RangeRecord 16} {l : Nat} {r : RangeIx} (h : lookup rt l = r) (hr : r ≠ 0) :
    rt[r].holds l = true := by
  unfold lookup at h
  cases hf : rangeIndices.find? (fun (k : RangeIx) => k != 0 && rt[k].holds l) with
  | none =>
    rw [hf] at h
    exact absurd h.symm hr
  | some k =>
    rw [hf, Option.getD_some] at h
    subst h
    have hk := List.find?_some hf
    rw [Bool.and_eq_true] at hk
    exact hk.2

/-- The start of the range that the lookup of an LBA returns, 0 for range 0, is not above the LBA (R6). -/
theorem start_le_of_lookup_eq {rt : Vector RangeRecord 16} {l : Nat} {r : RangeIx} (h : lookup rt l = r) :
    (if r = 0 then 0 else rt[r].start) ≤ l := by
  split
  · exact Nat.zero_le l
  · next hr =>
    have hholds := holds_of_lookup_eq h hr
    simp only [RangeRecord.holds, Bool.and_eq_true, decide_eq_true_eq] at hholds
    obtain ⟨⟨_, hstart⟩, _⟩ := hholds
    exact hstart

/-- The tweak offset of a job's input set: the distance from the start of its range plus the tweak base (R6). -/
theorem toNat_tweakOffset_inputSet (l : Nat) (r : RangeIx) (range : RangeRecord) (slot : SlotRecord) (f : FormatCode) :
    (tweakOffset (inputSet l r range slot f)).toNat =
      (l - (if r = 0 then 0 else range.start) + range.tweakBase.toNat) % 2 ^ 64 :=
  BitVec.toNat_ofNat ..

/-- LBAs less than 2^40 above the start of one range have distinct tweak offsets, whatever the tweak base wraps. -/
theorem lba_eq_of_tweakOffset_eq {a b : Nat} {r : RangeIx} {range : RangeRecord} {slot : SlotRecord} {f : FormatCode}
    (ha : (if r = 0 then 0 else range.start) ≤ a) (hb : (if r = 0 then 0 else range.start) ≤ b)
    (hla : a < 2 ^ 40) (hlb : b < 2 ^ 40)
    (h : tweakOffset (inputSet a r range slot f) = tweakOffset (inputSet b r range slot f)) : a = b := by
  have hn := congrArg BitVec.toNat h
  rw [toNat_tweakOffset_inputSet, toNat_tweakOffset_inputSet] at hn
  generalize (if r = 0 then 0 else range.start) = start at *
  omega

theorem seedBytes_length (i : InputSet) : (seedBytes i).length = 16 := by simp [seedBytes, zeroBytes]

/-- The bytes of the seed are those of Table 1-4. -/
theorem bytesOfBlock_seed (i : InputSet) : bytesOfBlock (seed i) = seedBytes i :=
  bytesOfBlock_blockOfBytes (seedBytes_length i)

/-- The fields of the seed stand at fixed places, and each is told by its bytes. -/
theorem seedBytes_inj {i j : InputSet} (h : seedBytes i = seedBytes j) :
    tweakOffset i = tweakOffset j ∧ i.generation = j.generation ∧ i.range = j.range ∧
      formatByte i.metaCipher i.format = formatByte j.metaCipher j.format := by
  have hfields := List.append_cancel_right h
  obtain ⟨hwords, hbytes⟩ := List.append_inj hfields (by simp)
  obtain ⟨hoffset, hgeneration⟩ := List.append_inj hwords (by simp)
  obtain ⟨hrange, hformat, -⟩ : _ ∧ _ ∧ _ := by simpa only [List.cons.injEq] using hbytes
  refine ⟨?_, ?_, ?_, hformat⟩
  · exact BitVec.eq_of_toNat_eq (leBytes_inj (tweakOffset i).isLt (tweakOffset j).isLt hoffset)
  · exact BitVec.eq_of_toNat_eq (leBytes_inj i.generation.isLt j.generation.isLt hgeneration)
  · have hi : i.range.val < 256 := i.range.isLt.trans (by decide)
    have hj : j.range.val < 256 := j.range.isLt.trans (by decide)
    have hval := (byte_eq_iff _ _ hj).mp hrange
    rw [BitVec.toNat_ofNat, Nat.mod_eq_of_lt hi] at hval
    exact Fin.ext hval

/-- Settles O17: distances from the start of a range stay below 2^40, so reduction modulo 2^64 keeps them apart, and the
seed's bytes tell its fields. -/
theorem offsetsAndSeeds : Obligations.OffsetsAndSeeds := by
  refine ⟨?offset, ?distinct, bytesOfBlock_seed, fun i j h => ?seeds⟩
  case offset =>
    intro s l slot f ⟨⟨_, hceiling⟩, _, _⟩ hl
    refine ⟨start_le_of_lookup_eq rfl, ?_, toNat_tweakOffset_inputSet ..⟩
    exact (Nat.sub_le ..).trans_lt (hl.trans_le hceiling)
  case distinct =>
    intro s a b slot f ⟨⟨_, hceiling⟩, _, _⟩ ha hb hr h
    have hsb := start_le_of_lookup_eq hr.symm
    simp only [← hr] at h
    exact lba_eq_of_tweakOffset_eq (start_le_of_lookup_eq rfl) hsb (ha.trans_le hceiling) (hb.trans_le hceiling) h
  case seeds =>
    apply seedBytes_inj
    rw [← bytesOfBlock_seed, h, bytesOfBlock_seed]

end Sys2Proof.Machine
end

section
/-! PROOFS. Reporting: CLEAR EVENTS (R146). -/

namespace Sys2Proof.Machine

/-! ### CLEAR EVENTS -/

/-- The frame of a directive with code 13 belongs to the row of CLEAR EVENTS (Table 11-4). -/
theorem directiveRow_clearEvents {f : Frame} (h : (directiveCode f).toNat = 13) : directiveRow f = .clearEvents := by
  simp only [directiveRow, h]

/-- An awake part with a CLEAR EVENTS to begin runs its catalogue entry and chooses its transmitters (R138, R140). -/
theorem exec_clearEvents_of_ready {done rest : List DrqEntry} {e : DrqEntry} {s : State} (h : Ready 13 3 done e rest s) :
    exec .clearEvents s = .next (transmit (clearEventsBody e.frame.payload s)) := by
  have ⟨hawake, _, _, _, hcode, _⟩ := h
  calc exec .clearEvents s
      = atEvent (fun s => transmit (beginDirective .clearEvents clearEventsBody s)) s := rfl
    _ = .next (transmit (beginDirective .clearEvents clearEventsBody s)) := atEvent_awake hawake
    _ = .next (transmit (clearEventsBody e.frame.payload s)) := by
      rw [beginDirective_of_ready h (directiveRow_clearEvents hcode) rfl]

/-- The catalogue entry answers OK with the flags as they stood before, on the state with the flags of the mask cleared
(R139, R146). -/
theorem clearEventsBody_of_ready {done rest : List DrqEntry} {e : DrqEntry} {s : State} (h : Ready 13 3 done e rest s)
    (p : Bytes) :
    clearEventsBody p s = State.answered .ok (leBytes 2 s.events.flags.toNat) done e rest
      { s with events := s.events.clear (maskParam p 1) } :=
  answer_of_ready h rfl rfl

/-- Clearing keeps the enable mask, and ATTENTION follows the flags that are left (R146, R149). -/
theorem clear_eq (m : BitVec 15) (e : Events) :
    e.clear m =
      { flags := (e.clear m).flags, mask := e.mask, attention := decide ((e.clear m).flags &&& e.mask ≠ 0) } := rfl

/-- Settles O59: the flags that are left are those of `Events.clear`, which `clear_flags` gives bit by bit. -/
theorem clearEventsClears : Obligations.ClearEventsClears := by
  intro done e rest s h mask
  refine ⟨(s.events.clear mask).flags, fun f => clear_flags mask f s.events, ?_⟩
  rw [exec_clearEvents_of_ready h, clearEventsBody_of_ready h, ← clear_eq]
  rfl

end Sys2Proof.Machine
end

section
/-! PROOFS. What the shared operations leave alone: the ending of a transfer, and all that it brings, touches only the
contexts, the lanes, the slots, the Directive Unit and the queues it shortens. -/

namespace Sys2Proof.Machine

/-! ### The flow control of a port (R93, R99) -/

/-- The mark test keeps a port's flow control in step (R93). -/
theorem flowAgrees_markTest (high low depth : Nat) {x : Port} (h : FlowAgrees x = true) :
    FlowAgrees (markTest high low depth x) = true := by
  obtain ⟨link, held, peer, pend, told, sending, line⟩ := x
  unfold markTest
  split_ifs with h1 h2 h3
  · exact h
  · rcases sending with _ | _ | _ | _ | _ <;> rcases pend with _ | _ | _ <;> rcases told with _ | _ | _ <;>
      cases held <;> simp_all [FlowAgrees, dueFlow, flowInTransmission]
  · rcases sending with _ | _ | _ | _ | _ <;> rcases pend with _ | _ | _ <;> rcases told with _ | _ | _ <;>
      cases held <;> simp_all [FlowAgrees, dueFlow, flowInTransmission]
  · exact h

/-! ### Calm changes -/

/-- What the ending of a transfer and all that follows from it may change of the state: the contexts (no idle deadline is
set), the lanes and hold lists, the slots, the Directive Unit (no drain timer is started), the Report Queue, and the
Directive Queue and the intake queues, which only get shorter, with the mark tests of their ports. -/
structure Calm (s t : State) : Prop where
  inReset : t.inReset = s.inReset
  time : t.time = s.time
  autoLock : t.autoLock = s.autoLock
  frontTurn : t.frontTurn = s.frontTurn
  moq : t.moq = s.moq
  fsq : t.fsq = s.fsq
  ranges : t.ranges = s.ranges
  wrapping : t.wrapping = s.wrapping
  random : t.random = s.random
  laneTurn : t.laneTurn = s.laneTurn
  limits : t.limits = s.limits
  events : t.events = s.events
  pending : t.pending = s.pending
  fiq : t.fiq <:+ s.fiq
  miq : t.miq <:+ s.miq
  drq : t.drq.length ≤ s.drq.length
  front : FlowAgrees s.front = true → FlowAgrees t.front = true
  media : FlowAgrees s.media = true → FlowAgrees t.media = true
  idle : ∀ i : Tag, t.contexts[i].state = .active →
    s.contexts[i].state = .active ∧ t.contexts[i].deadline = s.contexts[i].deadline
  drain : t.deadlineOf .drain = s.deadlineOf .drain ∨ t.deadlineOf .drain = none
  du : s.du = none → t.du = none

theorem Calm.refl (s : State) : Calm s s where
  inReset := rfl
  time := rfl
  autoLock := rfl
  frontTurn := rfl
  moq := rfl
  fsq := rfl
  ranges := rfl
  wrapping := rfl
  random := rfl
  laneTurn := rfl
  limits := rfl
  events := rfl
  pending := rfl
  fiq := List.suffix_refl _
  miq := List.suffix_refl _
  drq := le_refl _
  front := id
  media := id
  idle := fun _ h => ⟨h, rfl⟩
  drain := Or.inl rfl
  du := id

theorem Calm.trans {s t u : State} (a : Calm s t) (b : Calm t u) : Calm s u where
  inReset := b.inReset.trans a.inReset
  time := b.time.trans a.time
  autoLock := b.autoLock.trans a.autoLock
  frontTurn := b.frontTurn.trans a.frontTurn
  moq := b.moq.trans a.moq
  fsq := b.fsq.trans a.fsq
  ranges := b.ranges.trans a.ranges
  wrapping := b.wrapping.trans a.wrapping
  random := b.random.trans a.random
  laneTurn := b.laneTurn.trans a.laneTurn
  limits := b.limits.trans a.limits
  events := b.events.trans a.events
  pending := b.pending.trans a.pending
  fiq := b.fiq.trans a.fiq
  miq := b.miq.trans a.miq
  drq := b.drq.trans a.drq
  front := b.front ∘ a.front
  media := b.media ∘ a.media
  idle := fun i h => by
    obtain ⟨hb, hbd⟩ := b.idle i h
    obtain ⟨ha, had⟩ := a.idle i hb
    exact ⟨ha, hbd.trans had⟩
  drain := by
    rcases b.drain with h | h
    · rw [h]
      exact a.drain
    · exact Or.inr h
  du := b.du ∘ a.du

/-- Folding calm changes is calm. -/
theorem Calm.foldl {α : Type} {f : State → α → State} (h : ∀ s a, Calm s (f s a)) (l : List α) (s : State) :
    Calm s (l.foldl f s) := by
  induction l generalizing s with
  | nil => exact .refl s
  | cons a as ih => exact (h s a).trans (ih _)

/-- A change of the contexts alone is calm when it sets no idle deadline. -/
theorem Calm.contexts {s : State} {cs : Vector Context 64} (h : ∀ i : Tag, cs[i].state = .active →
    s.contexts[i].state = .active ∧ cs[i].deadline = s.contexts[i].deadline) : Calm s { s with contexts := cs } :=
  { Calm.refl s with idle := h }

/-- A change of the lanes, the hold lists, the slots and the Report Queue is calm. -/
theorem Calm.tables (s : State) (ls : Vector Lane 4) (sl : Vector SlotRecord 16) (mh fh : List LaneIx) (q : List Frame) :
    Calm s { s with lanes := ls, slots := sl, moqHold := mh, fsqHold := fh, rpq := q } :=
  { Calm.refl s with }

/-- A change of one context is calm when it sets no idle deadline. -/
theorem Calm.putContext {t : Tag} {c : Context} {s : State}
    (h : c.state = .active → s.contexts[t].state = .active ∧ c.deadline = s.contexts[t].deadline) :
    Calm s (putContext t c s) := by
  refine Calm.contexts fun i hi => ?_
  rw [set_get] at hi ⊢
  split_ifs at hi ⊢ with hti
  · subst hti
    exact h hi
  · exact ⟨hi, rfl⟩

theorem markExecuted_length (q : List DrqEntry) : (markExecuted q).length = q.length := by
  induction q with
  | nil => rfl
  | cons e q ih =>
    unfold markExecuted
    split_ifs <;> simp [ih]

theorem dropUnexecuted_length (q : List DrqEntry) : (dropUnexecuted q).length ≤ q.length := by
  induction q with
  | nil => exact le_refl _
  | cons e q ih =>
    unfold dropUnexecuted
    split_ifs <;> simp [ih]

theorem answer_calm (r : Result) (data : Bytes) (s : State) : Calm s (answer r data s) := by
  unfold answer
  split
  · exact { Calm.refl s with drain := Or.inr rfl, du := fun _ => rfl }
  · split_ifs
    · exact { Calm.refl s with drq := dropUnexecuted_length _, drain := Or.inr rfl, du := fun _ => rfl }
    · exact { Calm.refl s with drq := (markExecuted_length _).le, drain := Or.inr rfl, du := fun _ => rfl }

theorem completeDrain_calm (k : SlotIx) (goal : DrainGoal) {s : State} (h : s.du ≠ none) : Calm s (completeDrain k goal s) := by
  have hslots (x : SlotRecord) : Calm s (putSlot k x s) := { Calm.refl s with }
  unfold completeDrain
  split
  · exact (hslots _).trans (answer_calm ..)
  · split_ifs
    · exact (hslots _).trans (answer_calm ..)
    · exact { Calm.refl s with drain := Or.inr rfl, du := fun hn => absurd hn h }

theorem leaveDrain_calm (t : Tag) (s : State) : Calm s (leaveDrain t s) := by
  have hslots (k : SlotIx) (x : SlotRecord) : Calm s (putSlot k x s) := { Calm.refl s with }
  unfold leaveDrain
  split
  · next hdu =>
    dsimp only
    split_ifs
    · exact (hslots _ _).trans (completeDrain_calm _ _ (by rw [putSlot_du, hdu]; exact nofun))
    · exact hslots _ _
    · exact .refl s
  · exact .refl s

theorem enterReporting_calm (t : Tag) (s : State) : Calm s (enterReporting t s) := by
  have hput : Calm s (putContext t { s.contexts[t] with state := .reporting, deadline := none } s) :=
    .putContext nofun
  exact (hput.trans (.tables ..)).trans (leaveDrain_calm ..)

theorem freeContext_calm (t : Tag) (s : State) : Calm s (freeContext t s) :=
  (Calm.putContext fun h => nomatch (show ContextState.free = .active from h)).trans (leaveDrain_calm ..)

theorem leaveEnding_calm (t : Tag) (s : State) : Calm s (leaveEnding t s) := by
  unfold leaveEnding
  split_ifs
  · exact freeContext_calm t s
  · exact enterReporting_calm t s
  · exact .refl s

theorem finishTransfer_calm (t : Tag) (s : State) : Calm s (finishTransfer t s) := by
  unfold finishTransfer
  split_ifs
  · have hput : Calm s (putContext t { s.contexts[t] with ending := some .done } s) := .putContext fun h => ⟨h, rfl⟩
    exact hput.trans (enterReporting_calm ..)
  · exact .refl s

theorem releaseLane_calm (l : LaneIx) (j : Job) (s : State) : Calm s (releaseLane l j s) :=
  (Calm.tables s _ _ _ _ _).trans (.putContext fun h => ⟨h, rfl⟩)

theorem discardOutput_calm (l : LaneIx) (j : Job) (s : State) : Calm s (discardOutput l j s) :=
  (releaseLane_calm l j s).trans (leaveEnding_calm ..)

theorem discardHeldRead_calm (t : Tag) (l : LaneIx) (s : State) : Calm s (discardHeldRead t l s) := by
  unfold discardHeldRead
  split
  · split_ifs
    · exact discardOutput_calm ..
    · exact .refl s
  · exact .refl s

theorem discardHeldWrite_calm (l : LaneIx) (s : State) : Calm s (discardHeldWrite l s) := by
  unfold discardHeldWrite
  split
  · exact discardOutput_calm ..
  · exact .refl s

theorem discardHeldReads_calm (t : Tag) (s : State) : Calm s (discardHeldReads t s) :=
  Calm.foldl (fun s l => discardHeldRead_calm t l s) _ s

theorem popIntake_calm (p : PortId) (s : State) : Calm s (popIntake p s) := by
  cases p
  · exact { Calm.refl s with fiq := List.tail_suffix _, front := flowAgrees_markTest _ _ _ }
  · exact { Calm.refl s with miq := List.tail_suffix _, media := flowAgrees_markTest _ _ _ }

theorem discardFrontHead_calm (t : Tag) (s : State) : Calm s (discardFrontHead t s) := by
  unfold discardFrontHead
  split_ifs
  · exact popIntake_calm ..
  · exact .refl s

theorem discardMediaHead_calm (t : Tag) (s : State) : Calm s (discardMediaHead t s) := by
  unfold discardMediaHead
  split_ifs
  · exact popIntake_calm ..
  · exact .refl s

/-- What an ending clears away once its context is ENDING (R79, R80). -/
theorem enterEnding_cleanup_calm (t : Tag) (c : Context) (s : State) :
    Calm (putContext t { c with state := .ending, deadline := none } s) (enterEnding t c s) :=
  (((discardFrontHead_calm ..).trans (discardMediaHead_calm ..)).trans (discardHeldReads_calm ..)).trans
    (leaveEnding_calm ..)

theorem enterEnding_calm (t : Tag) (c : Context) (s : State) : Calm s (enterEnding t c s) :=
  (Calm.putContext fun h => nomatch (show ContextState.ending = .active from h)).trans (enterEnding_cleanup_calm t c s)

theorem endTransfer_calm (t : Tag) (e : Ending) (fail : Option Nat) (s : State) : Calm s (endTransfer t e fail s) := by
  unfold endTransfer
  split_ifs
  · exact enterEnding_calm ..
  · exact .refl s

theorem cutTransfers_calm (ts : List Tag) (s : State) : Calm s (cutTransfers ts s) :=
  Calm.foldl (fun s t => endTransfer_calm t _ _ s) ts s

theorem frontLossContext_calm (t : Tag) (s : State) : Calm s (frontLossContext t s) := by
  unfold frontLossContext
  dsimp only
  split
  · exact .refl s
  · exact enterEnding_calm ..
  · exact enterEnding_calm ..
  · have hput : Calm s (putContext t { s.contexts[t] with suppressed := true } s) := .putContext fun h => ⟨h, rfl⟩
    exact hput.trans (leaveEnding_calm ..)
  · exact freeContext_calm ..

end Sys2Proof.Machine
end

section
/-! PROOFS. What an operation may do to the plain laws (ATTENTION, the bounds of the queues, the flow control of the ports and
the timers), and that the intake heads and the transmitters keep them. -/

namespace Sys2Proof.Machine

/-! ### The Event Summary (R149) -/

/-- Two words have a common bit exactly when their conjunction is not zero. -/
theorem and_ne_zero_iff (a b : BitVec 15) :
    a &&& b ≠ 0 ↔ ∃ f : Fin 15, a.getLsbD f.val = true ∧ b.getLsbD f.val = true := by
  rw [ne_eq, BitVec.eq_of_getLsbD_eq_iff, not_forall]
  constructor
  · rintro ⟨i, hi⟩
    simp only [BitVec.getLsbD_and, BitVec.ofNat_eq_ofNat, BitVec.getLsbD_zero, Bool.and_eq_false_iff, not_forall,
      not_or, Bool.not_eq_false] at hi
    obtain ⟨hlt, ha, hb⟩ := hi
    exact ⟨⟨i, hlt⟩, ha, hb⟩
  · rintro ⟨f, ha, hb⟩
    refine ⟨f.val, fun h => ?_⟩
    have hbit := h f.isLt
    simp only [BitVec.getLsbD_and, ha, hb, BitVec.ofNat_eq_ofNat, BitVec.getLsbD_zero] at hbit
    cases hbit

/-- An Event Summary just evaluated meets the law of ATTENTION (R149). -/
theorem attention_evaluate (e : Events) (s : State) : AttentionTells { s with events := e.evaluate } := by
  show decide (e.flags &&& e.mask ≠ 0) = decide _
  rw [decide_eq_decide]
  exact and_ne_zero_iff ..

/-! ### Timers that are not due (R157) -/

/-- A deadline that lies ahead, by less than half of the time base, has not been passed. -/
theorem not_closed_timeAfter {now : Time} {n unit : Nat} (hn : n < 2 ^ 63) (hu : 1 ≤ unit) :
    ¬ Closed now (timeAfter now n) unit := by
  unfold timeAfter Closed
  have hnow := now.isLt
  have hsub : (now - (now + BitVec.ofNat 64 n)).toNat = (2 ^ 64 - n) % 2 ^ 64 := by
    simp only [BitVec.toNat_sub, BitVec.toNat_add, BitVec.toNat_ofNat]
    omega
  rw [hsub]
  omega

theorem TimerId.unit_pos (x : TimerId) : 1 ≤ x.unit := by cases x <;> exact Nat.le_add_left 1 _

/-- A timer that is late has been passed by its unit. -/
theorem Late.closed {now d : Time} {unit : Nat} (h : Late now d unit) : Closed now d unit := ⟨h.1.le, h.2⟩

/-- A running timer has not been passed by a unit or more. -/
def NotDue (x : TimerId) (s : State) : Prop := ∀ d ∈ s.deadlineOf x, ¬ Closed s.time d x.unit

/-- The limits are as SET LIMITS stores them (Table 9-4). -/
abbrev LimitsStored (s : State) : Prop := s.limits.idle < 65536 ∧ s.limits.drain < 65536 ∧ s.limits.selector ≤ 7

/-! ### Brisk changes -/

/-- What every operation but a few keeps: the time and the limits stay, the plain laws hold on, and every running
timer runs on or is set afresh. -/
structure Brisk (s t : State) : Prop where
  time : t.time = s.time
  limits : t.limits = s.limits
  ranges : RangesDisjoint s → RangesDisjoint t
  attention : AttentionTells s → AttentionTells t
  queues : QueuesBounded s → QueuesBounded t
  front : FlowAgrees s.front = true → FlowAgrees t.front = true
  media : FlowAgrees s.media = true → FlowAgrees t.media = true
  timers : LimitsStored s → ∀ x, ∀ d ∈ t.deadlineOf x, d ∈ s.deadlineOf x ∨ ∃ n < 2 ^ 63, d = timeAfter s.time n

theorem Brisk.refl (s : State) : Brisk s s where
  time := rfl
  limits := rfl
  ranges := id
  attention := id
  queues := id
  front := id
  media := id
  timers := fun _ _ _ h => Or.inl h

theorem Brisk.trans {s t u : State} (a : Brisk s t) (b : Brisk t u) : Brisk s u where
  time := b.time.trans a.time
  limits := b.limits.trans a.limits
  ranges := b.ranges ∘ a.ranges
  attention := b.attention ∘ a.attention
  queues := b.queues ∘ a.queues
  front := b.front ∘ a.front
  media := b.media ∘ a.media
  timers := fun hl x d hd => by
    have hlt : LimitsStored t := by rw [LimitsStored, a.limits]; exact hl
    rcases b.timers hlt x d hd with h | ⟨n, hn, h⟩
    · exact a.timers hl x d h
    · exact Or.inr ⟨n, hn, by rw [h, a.time]⟩

theorem Brisk.foldl {α : Type} {f : State → α → State} (h : ∀ s a, Brisk s (f s a)) (l : List α) (s : State) :
    Brisk s (l.foldl f s) := by
  induction l generalizing s with
  | nil => exact .refl s
  | cons a as ih => exact (h s a).trans (ih _)

/-- A calm change keeps the plain laws. -/
theorem Calm.brisk {s t : State} (h : Calm s t) : Brisk s t where
  time := h.time
  limits := h.limits
  ranges := fun hr => by rwa [RangesDisjoint, h.ranges, h.limits]
  attention := fun ha => by rw [AttentionTells, h.events]; exact ha
  queues := fun ⟨h1, h2, h3, h4, h5⟩ =>
    ⟨h.fiq.length_le.trans h1, h.miq.length_le.trans h2, h.drq.trans h3, by rwa [h.moq], by rwa [h.fsq]⟩
  front := h.front
  media := h.media
  timers := fun _ x d hd => by
    refine Or.inl ?_
    cases x with
    | autoLock => rwa [State.deadlineOf, h.autoLock] at hd
    | drain =>
      rcases h.drain with he | he <;> rw [he] at hd
      · exact hd
      · cases hd
    | idle t =>
      simp only [State.deadlineOf] at hd ⊢
      split_ifs at hd with ha
      · obtain ⟨hs, hdl⟩ := h.idle t ha
        rw [if_pos hs, ← hdl]
        exact hd
      · cases hd

/-- Running timers that a brisk change leaves or sets are not due, if none was. -/
theorem Brisk.notDue {s t : State} (h : Brisk s t) (hl : LimitsStored s) {x : TimerId} (hx : NotDue x s) : NotDue x t := by
  intro d hd
  rw [h.time]
  rcases h.timers hl x d hd with hs | ⟨n, hn, rfl⟩
  · exact hx d hs
  · exact not_closed_timeAfter hn x.unit_pos

/-- A brisk change lets no timer run late (R157). -/
theorem Brisk.timersInTime {s t : State} (h : Brisk s t) (hs : TimersInTime s) : TimersInTime t := by
  obtain ⟨hl, hlate⟩ := hs
  refine ⟨by rw [h.limits]; exact hl, fun x d hd => ?_⟩
  rw [h.time]
  rcases h.timers hl x d hd with hd' | ⟨n, hn, rfl⟩
  · exact hlate x d hd'
  · exact fun hc => not_closed_timeAfter hn x.unit_pos hc.closed

/-- A change of the queues alone keeps the plain laws when it keeps the bounds. -/
theorem Brisk.queued {s : State} {f m : List Queued} {d : List DrqEntry} {o r : List Frame}
    (h : QueuesBounded s → f.length ≤ 16 ∧ m.length ≤ 16 ∧ d.length ≤ 8 ∧ o.length ≤ 16 ∧ r.length ≤ 16) :
    Brisk s { s with fiq := f, miq := m, drq := d, moq := o, fsq := r } :=
  { Brisk.refl s with queues := h }

/-- A change of the ports alone keeps the plain laws when it keeps their flow control in step. -/
theorem Brisk.ports {s : State} {x y : Port} (hx : FlowAgrees s.front = true → FlowAgrees x = true)
    (hy : FlowAgrees s.media = true → FlowAgrees y = true) : Brisk s { s with front := x, media := y } :=
  { Brisk.refl s with front := hx, media := hy }

theorem raise_brisk (f : Fin 15) (s : State) : Brisk s (raise f s) :=
  { Brisk.refl s with attention := fun _ => attention_evaluate _ _ }

/-- An idle deadline set now lies ahead (R76). -/
theorem idleDeadline_ahead {s : State} (h : LimitsStored s) {d : Time} (hd : d ∈ idleDeadline s) :
    ∃ n < 2 ^ 63, d = timeAfter s.time n := by
  unfold idleDeadline at hd
  split_ifs at hd
  · cases hd
  · cases hd
    exact ⟨100 * s.limits.idle, by omega, rfl⟩

/-- A context takes a new record, whose idle deadline, if it is ACTIVE, is the one it had or set now (R76). -/
theorem Brisk.putContext {t : Tag} {c : Context} {s : State} (h : c.state = .active →
    (s.contexts[t].state = .active ∧ c.deadline = s.contexts[t].deadline) ∨ c.deadline = idleDeadline s) :
    Brisk s (putContext t c s) := by
  refine { Brisk.refl s with timers := fun hl x d hd => ?_ }
  cases x with
  | autoLock => exact Or.inl hd
  | drain => exact Or.inl hd
  | idle i =>
    simp only [State.deadlineOf, putContext_contexts, set_get] at hd ⊢
    by_cases hti : t = i
    · subst hti
      simp only [if_true] at hd
      split_ifs at hd with ha
      · rcases h ha with ⟨hs, hdl⟩ | hdl
        · rw [if_pos hs, ← hdl]
          exact Or.inl hd
        · rw [hdl] at hd
          exact Or.inr (idleDeadline_ahead hl hd)
      · cases hd
    · simp only [if_neg hti] at hd
      exact Or.inl hd

/-! ### The heads -/

theorem takeOpen_brisk (q : Queued) (s : State) : Brisk s (takeOpen q s) := by
  unfold takeOpen
  dsimp only
  split
  · exact .putContext fun _ => Or.inr rfl
  · refine Brisk.trans (.putContext fun h => ?_) (enterReporting_calm ..).brisk
    exact nomatch (show ContextState.free = .active from h)

/-- A context that takes a sector is ACTIVE with its deadline set now, or FLUSHING (R71, R74, R76). -/
theorem take_deadline (d : Option Time) (i jobs : Nat) (c : Context) :
    (c.take d i jobs).state = .active → (c.take d i jobs).deadline = d := by
  unfold Context.take
  dsimp only
  split_ifs
  · exact nofun
  · exact fun _ => rfl

theorem deliver_brisk (t : Tag) (r : ReadStatus) (f : Frame) {s : State} (h : s.fsq.length < 16) :
    Brisk s (deliver t r f s) := by
  have hput : Brisk s (putContext t { s.contexts[t] with
      finished := s.contexts[t].finished + 1, counts := s.contexts[t].counts.raise r } s) :=
    .putContext fun ha => Or.inl ⟨ha, rfl⟩
  have hq (x : State) (hx : x.fsq.length < 16) : Brisk x { x with fsq := x.fsq ++ [f] } :=
    .queued fun ⟨h1, h2, h3, h4, h5⟩ => ⟨h1, h2, h3, h4, by simpa using hx⟩
  have hflag (b : Bool) (g : Fin 15) (x : State) : Brisk x (raiseIf b g x) := by
    unfold raiseIf
    split_ifs
    · exact raise_brisk g x
    · exact .refl x
  exact ((hput.trans (hq _ h)).trans (hflag ..)).trans (hflag ..)

theorem takeBypass_brisk (q : Queued) (r : ReadStatus) {s : State} (h : hasRoom .fsq s = true) :
    Brisk s (takeBypass q r s) := by
  have hlen : s.fsq.length < 16 := by
    rw [hasRoom, Bool.and_eq_true, decide_eq_true_eq] at h
    exact h.1
  have hput (x : State) : Brisk x (putContext (frameTag q.frame)
      (x.contexts[frameTag q.frame].take (idleDeadline x) (frameIndex q.frame) 0) x) :=
    .putContext fun ha => Or.inr (take_deadline _ _ _ _ ha)
  exact (((popIntake_calm .media s).brisk.trans (hput _)).trans (deliver_brisk _ _ _ hlen)).trans
    (finishTransfer_calm ..).brisk

theorem disposeFront_brisk (q : Queued) (s : State) : Brisk s (disposeFront q s) := by
  have hpop : Brisk s (popIntake .front s) := (popIntake_calm ..).brisk
  unfold disposeFront
  dsimp only
  split_ifs
  · exact hpop.trans (takeOpen_brisk ..)
  · exact (hpop.trans (raise_brisk ..)).trans (endTransfer_calm ..).brisk
  · split
    · exact hpop
    · exact hpop
    · exact hpop.trans (raise_brisk ..)
    · exact hpop.trans (raise_brisk ..)
    · exact hpop.trans (raise_brisk ..)
    · split
      · exact hpop.trans (endTransfer_calm ..).brisk
      · exact hpop

theorem judgeHead_brisk (q : Queued) (s : State) : Brisk s (judgeHead q s) := by
  have hv (v : Verdict) : Brisk s { s with verdict := some v } := { Brisk.refl s with }
  unfold judgeHead
  dsimp only
  split
  · exact hv _
  · split_ifs with h
    · exact takeBypass_brisk _ _ h
    · exact hv _

theorem disposeMedia_brisk (q : Queued) (s : State) : Brisk s (disposeMedia q s) := by
  have hpop : Brisk s (popIntake .media s) := (popIntake_calm ..).brisk
  unfold disposeMedia
  dsimp only
  split
  · exact hpop
  · exact hpop
  · exact hpop.trans (raise_brisk ..)
  · exact hpop.trans (raise_brisk ..)
  · exact hpop.trans (raise_brisk ..)
  · split_ifs
    · exact hpop.trans (raise_brisk ..)
    · exact hpop.trans (raise_brisk ..)
    · exact hpop.trans (endTransfer_calm ..).brisk
    · exact judgeHead_brisk q s

theorem frontHead_brisk (n : Nat) (s : State) : Brisk s (frontHead n s) := by
  induction n generalizing s with
  | zero => exact .refl s
  | succ n ih =>
    unfold frontHead
    split
    · exact .refl s
    · split_ifs
      · exact .refl s
      · exact (disposeFront_brisk ..).trans (ih _)

theorem mediaHead_brisk (n : Nat) (s : State) : Brisk s (mediaHead n s) := by
  induction n generalizing s with
  | zero => exact .refl s
  | succ n ih =>
    unfold mediaHead
    split_ifs
    · exact .refl s
    · split
      · exact .refl s
      · exact (disposeMedia_brisk ..).trans (ih _)

theorem heads_brisk (s : State) : Brisk s (heads s) := (frontHead_brisk ..).trans (mediaHead_brisk ..)

/-! ### The transmitters -/

/-- What the front arbiter chooses is the pending flow frame, or with none pending and the peer hold clear a queue that holds
a frame (R96). -/
theorem frontChoice_cases {s : State} {x : Sending} (h : frontChoice s = some x) :
    (∃ f, x = .flow f ∧ s.front.pendingFlow = some f) ∨ x = .rpq ∨ x = .fsq := by
  unfold frontChoice at h
  split at h
  · next f hf => exact Or.inl ⟨f, by injection h with h; exact h.symm, hf⟩
  · split_ifs at h
    split at h <;> simp_all

/-- What the media transmitter chooses is the pending flow frame or the MOQ (R97). -/
theorem mediaChoice_cases {s : State} {x : Sending} (h : mediaChoice s = some x) :
    (∃ f, x = .flow f ∧ s.media.pendingFlow = some f) ∨ x = .moq := by
  unfold mediaChoice at h
  split at h
  · next f hf => exact Or.inl ⟨f, by injection h with h; exact h.symm, hf⟩
  · split_ifs at h
    exact Or.inr (by injection h with h; exact h.symm)

/-- A free transmitter that begins on the pending flow frame, or on a queued frame, keeps the flow control in step. -/
theorem flowAgrees_beginSending {p : Port} {x : Sending} (hs : p.sending = none)
    (hx : (∃ f, x = .flow f ∧ p.pendingFlow = some f) ∨ x = .rpq ∨ x = .fsq ∨ x = .moq) (h : FlowAgrees p = true) :
    FlowAgrees (beginSending x p) = true := by
  rcases hx with ⟨f, rfl, hf⟩ | rfl | rfl | rfl
  · cases f <;> simp_all [FlowAgrees, beginSending]
  all_goals rwa [FlowAgrees, hs] at h

theorem frontTransmit_brisk (s : State) : Brisk s (frontTransmit s) := by
  unfold frontTransmit
  split_ifs with h
  · split
    · next x hx =>
      exact { Brisk.refl s with
        front := flowAgrees_beginSending h.2 ((frontChoice_cases hx).imp_right fun hq => hq.imp_right Or.inl) }
    · exact .refl s
  · exact .refl s

theorem mediaTransmit_brisk (s : State) : Brisk s (mediaTransmit s) := by
  unfold mediaTransmit
  split_ifs with h
  · split
    · next x hx =>
      exact { Brisk.refl s with
        media := flowAgrees_beginSending h.2 ((mediaChoice_cases hx).imp_right fun hq => Or.inr (Or.inr hq)) }
    · exact .refl s
  · exact .refl s

theorem transmit_brisk (s : State) : Brisk s (transmit s) := (frontTransmit_brisk s).trans (mediaTransmit_brisk _)

end Sys2Proof.Machine
end

section
/-! PROOFS. The expiry of timers (R35, R57, R76, R155, R157): what it keeps, and that a microsecond lets no timer run late. -/

namespace Sys2Proof.Machine

/-! ### Locks (R33, R35) -/

/-- A record of the same extent: only the two locks may differ. -/
abbrev SameButLocks (r r' : RangeRecord) : Prop :=
  r' = { r with readLock := r'.readLock, writeLock := r'.writeLock }

/-- The law of the Range Table does not depend on the locks (R22, R23). -/
theorem rangesDisjoint_locks {s : State} {rt : Vector RangeRecord 16} (h : ∀ k : RangeIx, SameButLocks s.ranges[k] rt[k])
    (hs : RangesDisjoint s) : RangesDisjoint { s with ranges := rt } := by
  have hext (k : RangeIx) : rt[k].enabled = s.ranges[k].enabled ∧ rt[k].start = s.ranges[k].start ∧
      rt[k].length = s.ranges[k].length := by
    rw [h k]
    exact ⟨rfl, rfl, rfl⟩
  obtain ⟨hceiling, ⟨hen, hstart, hlength⟩, hrest⟩ := hs
  obtain ⟨hen', hstart', hlength'⟩ := hext 0
  refine ⟨hceiling, ⟨hen'.trans hen, hstart'.trans hstart, hlength'.trans hlength⟩, fun k hk => ?_⟩
  obtain ⟨hon, hoff⟩ := hrest k hk
  obtain ⟨hek, hsk, hlk⟩ := hext k
  dsimp only
  constructor
  · rw [hek, hsk, hlk]
    intro he
    obtain ⟨h1, h2, h3⟩ := hon he
    refine ⟨h1, h2, fun j hj hjk hje => ?_⟩
    obtain ⟨hej, hsj, hlj⟩ := hext j
    rw [hsj, hlj]
    exact h3 j hj hjk (hej.symm.trans hje)
  · intro he
    rw [h k]
    exact hoff (hek.symm.trans he)

theorem lockedRecord_sameButLocks (r : RangeRecord) : SameButLocks r (lockedRecord r) := by
  unfold lockedRecord
  split_ifs <;> rfl

theorem lockRanges_brisk (s : State) : Brisk s (lockRanges s) := by
  rw [lockRanges_eq]
  refine { Brisk.refl s with ranges := rangesDisjoint_locks fun k => ?_ }
  have hk : (s.ranges.map lockedRecord)[k] = lockedRecord s.ranges[k] := by simp
  rw [hk]
  exact lockedRecord_sameButLocks _

/-! ### Expiries -/

theorem failFilling_calm (k : SlotIx) (r : Result) (s : State) : Calm s (failFilling k r s) :=
  (show Calm s (emptySlot k s) from { Calm.refl s with }).trans (answer_calm ..)

theorem zeroiseEntries_brisk (s : State) : Brisk s (zeroiseEntries s) := by
  have hw : Brisk s { s with wrapping := Vector.replicate 4 none } := { Brisk.refl s with }
  unfold zeroiseEntries
  dsimp only
  split <;> first | exact hw.trans (failFilling_calm ..).brisk | exact hw

/-- A timer that stops is the only thing to change. -/
theorem autoLock_stops_brisk (s : State) : Brisk s { s with autoLock := none } := by
  refine { Brisk.refl s with timers := fun _ x d hd => Or.inl ?_ }
  cases x with
  | autoLock => cases hd
  | drain => exact hd
  | idle t => exact hd

theorem stopDrainTimer_brisk (s : State) : Brisk s (stopDrainTimer s) := by
  unfold stopDrainTimer
  split
  · refine { Brisk.refl s with timers := fun _ x d hd => Or.inl ?_ }
    cases x with
    | autoLock => exact hd
    | drain => cases hd
    | idle t => exact hd
  · exact .refl s

theorem expireAutoLock_brisk (s : State) : Brisk s (expireAutoLock s) :=
  (((autoLock_stops_brisk s).trans (lockRanges_brisk _)).trans (raise_brisk ..)).trans (zeroiseEntries_brisk _)

theorem expireDrain_brisk (k : SlotIx) (s : State) : Brisk s (expireDrain k s) :=
  (((stopDrainTimer_brisk s).trans (raise_brisk ..)).trans (cutTransfers_calm ..).brisk).trans (heads_brisk _)

theorem expireIdle_brisk (t : Tag) (s : State) : Brisk s (expireIdle t s) := by
  unfold expireIdle
  split_ifs
  · exact (endTransfer_calm ..).brisk.trans (heads_brisk _)
  · exact .refl s

/-! ### A microsecond (R157) -/

theorem serveHeads_brisk (s : State) : Brisk s (serveHeads s) := by
  unfold serveHeads settle
  split_ifs
  · exact (heads_brisk s).trans (transmit_brisk _)
  · exact .refl s

theorem autoLockDue_brisk (s : State) : Brisk s (autoLockDue s) := by
  unfold autoLockDue
  split
  · split_ifs
    · exact (expireAutoLock_brisk s).trans (transmit_brisk _)
    · exact .refl s
  · exact .refl s

theorem drainDue_brisk (s : State) : Brisk s (drainDue s) := by
  unfold drainDue
  split
  · split_ifs
    · exact (expireDrain_brisk ..).trans (transmit_brisk _)
    · exact .refl s
  · exact .refl s

theorem idleDue_brisk (t : Tag) (s : State) : Brisk s (idleDue t s) := by
  unfold idleDue
  split
  · split_ifs
    · exact (expireIdle_brisk ..).trans (transmit_brisk _)
    · exact .refl s
  · exact .refl s

/-- A timer that is not running is not due. -/
theorem notDue_of_stopped {x : TimerId} {s : State} (h : s.deadlineOf x = none) : NotDue x s := by
  intro d hd
  rw [h] at hd
  cases hd

/-- After its turn in an idle step the auto-lock timer is not due. -/
theorem autoLockDue_notDue {s : State} (hl : LimitsStored s) : NotDue .autoLock (autoLockDue s) := by
  unfold autoLockDue
  split
  · next d hd =>
    split_ifs with hc
    · have hstop : Brisk { s with autoLock := none } (transmit (expireAutoLock s)) :=
        (((lockRanges_brisk _).trans (raise_brisk ..)).trans (zeroiseEntries_brisk _)).trans (transmit_brisk _)
      exact hstop.notDue hl (notDue_of_stopped rfl)
    · intro e he
      rw [State.deadlineOf, hd] at he
      cases he
      rwa [windowClosed_iff] at hc
  · next hd => exact notDue_of_stopped hd

/-- After its turn in an idle step the drain timer is not due. -/
theorem drainDue_notDue {s : State} (hl : LimitsStored s) : NotDue .drain (drainDue s) := by
  have hrun := runningDrain_deadline s
  unfold drainDue
  split
  · next k d hd =>
    rw [hd] at hrun
    split_ifs with hc
    · have hstop : (stopDrainTimer s).deadlineOf .drain = none := by
        unfold stopDrainTimer
        split
        · rfl
        · next h => unfold State.deadlineOf; split <;> simp_all
      have hrest : Brisk (stopDrainTimer s) (transmit (expireDrain k s)) :=
        (((raise_brisk ..).trans (cutTransfers_calm ..).brisk).trans (heads_brisk _)).trans (transmit_brisk _)
      have hlt : LimitsStored (stopDrainTimer s) := by rw [LimitsStored, (stopDrainTimer_brisk s).limits]; exact hl
      exact hrest.notDue hlt (notDue_of_stopped hstop)
    · intro e he
      rw [← hrun] at he
      cases he
      rwa [windowClosed_iff] at hc
  · next hd =>
    rw [hd] at hrun
    exact notDue_of_stopped hrun.symm

/-- The ending of a transfer leaves it in ENDING, REPORTING or FREE (R79, R80). -/
theorem endTransfer_not_active {t : Tag} {e : Ending} {fail : Option Nat} {s : State}
    (h : s.contexts[t].state.running = true) : (endTransfer t e fail s).contexts[t].state ≠ .active := by
  unfold endTransfer
  rw [if_pos h]
  intro ha
  obtain ⟨hput, _⟩ := (enterEnding_cleanup_calm ..).idle t ha
  rw [putContext_contexts, set_get_self] at hput
  cases hput

/-- After its turn in an idle step an idle deadline is not due. -/
theorem idleDue_notDue {t : Tag} {s : State} (hl : LimitsStored s) : NotDue (.idle t) (idleDue t s) := by
  unfold idleDue
  split
  · next d hd =>
    split_ifs with hc
    · obtain ⟨ha, _⟩ := hc
      have hrun : s.contexts[t].state.running = true := by rw [ha]; rfl
      unfold expireIdle
      rw [if_pos ha]
      have hend : Brisk s (endTransfer t .timeout none s) := (endTransfer_calm ..).brisk
      have hlt : LimitsStored (endTransfer t .timeout none s) := by rw [LimitsStored, hend.limits]; exact hl
      refine ((heads_brisk _).trans (transmit_brisk _)).notDue hlt (notDue_of_stopped ?_)
      simp only [State.deadlineOf]
      rw [if_neg (endTransfer_not_active hrun)]
    · intro e he
      simp only [State.deadlineOf] at he
      split_ifs at he with ha
      · rw [hd] at he
        cases he
        rw [← windowClosed_iff]
        exact fun h => hc ⟨ha, h⟩
      · cases he
  · next hd =>
    refine notDue_of_stopped ?_
    simp only [State.deadlineOf]
    split_ifs
    · exact hd
    · rfl

theorem idleDue_fold_brisk (l : List Tag) (s : State) : Brisk s (l.foldl (fun s t => idleDue t s) s) :=
  Brisk.foldl (fun s t => idleDue_brisk t s) l s

/-- After an idle step's turns of a list of tags their idle deadlines are not due. -/
theorem idleDue_fold_notDue {l : List Tag} {s : State} (hl : LimitsStored s) :
    ∀ t ∈ l, NotDue (.idle t) (l.foldl (fun s t => idleDue t s) s) := by
  induction l generalizing s with
  | nil => simp
  | cons a as ih =>
    have hlt : LimitsStored (idleDue a s) := by rw [LimitsStored, (idleDue_brisk a s).limits]; exact hl
    intro t ht
    rcases List.mem_cons.mp ht with rfl | ht
    · exact (idleDue_fold_brisk as _).notDue hlt (idleDue_notDue hl)
    · exact ih hlt t ht

/-- The part in an idle step, before the microsecond passes. -/
def expiredAll (s : State) : State := allTags.foldl (fun s t => idleDue t s) (drainDue (autoLockDue (serveHeads s)))

theorem tick_eq {s : State} (h : s.inReset = false) : tick s = { expiredAll s with time := (expiredAll s).time + 1 } := by
  unfold tick
  rw [h]
  rfl

theorem expiredAll_brisk (s : State) : Brisk s (expiredAll s) :=
  (((serveHeads_brisk s).trans (autoLockDue_brisk _)).trans (drainDue_brisk _)).trans (idleDue_fold_brisk ..)

/-- In an idle step every timer whose window has closed expires (R157; log entry 3). -/
theorem expiredAll_noneDue {s : State} (hl : LimitsStored s) : NoneDue (expiredAll s) := by
  have h1 : LimitsStored (serveHeads s) := by rw [LimitsStored, (serveHeads_brisk s).limits]; exact hl
  have h2 : LimitsStored (autoLockDue (serveHeads s)) := by rw [LimitsStored, (autoLockDue_brisk _).limits]; exact h1
  have h3 : LimitsStored (drainDue (autoLockDue (serveHeads s))) := by
    rw [LimitsStored, (drainDue_brisk _).limits]; exact h2
  unfold NoneDue
  rw [forall_timer]
  refine ⟨?_, ?_, fun t => idleDue_fold_notDue h3 t (List.mem_finRange t)⟩
  · exact (idleDue_fold_brisk ..).notDue h3 ((drainDue_brisk _).notDue h2 (autoLockDue_notDue h1))
  · exact (idleDue_fold_brisk ..).notDue h3 (drainDue_notDue h2)

/-- A deadline that has not been passed by a unit is not passed by more than one a microsecond later. -/
theorem not_late_of_not_closed {now d : Time} {unit : Nat} (h : ¬ Closed now d unit) : ¬ Late (now + 1) d unit := by
  unfold Closed at h
  unfold Late
  have hsucc : (now + 1 - d).toNat = ((now - d).toNat + 1) % 2 ^ 64 := by
    have := now.isLt
    have := d.isLt
    have hone : (1#64).toNat = 1 := rfl
    simp only [BitVec.toNat_sub, BitVec.toNat_add, BitVec.ofNat_eq_ofNat, hone]
    omega
  rw [hsucc]
  omega

/-- A microsecond lets no timer run late where none is due (R157). -/
theorem timersInTime_succ {s : State} (hl : LimitsStored s) (h : NoneDue s) : TimersInTime { s with time := s.time + 1 } :=
  ⟨hl, fun x d hd => not_late_of_not_closed (h x d hd)⟩

/-- An expiry command lets time pass to its deadline, by when no other timer is late (R157; log entry 3). -/
theorem timersInTime_expiry {id : TimerId} {d : Time} {s : State} (hd : s.deadlineOf id = some d)
    (hm : mayExpire id d s = true) (hs : TimersInTime s) : TimersInTime { s with time := expiryTime s.time d } := by
  obtain ⟨hl, hlate⟩ := hs
  refine ⟨hl, fun x e he => ?_⟩
  by_cases hx : x = id
  · subst hx
    have he' : e ∈ s.deadlineOf x := he
    rw [hd] at he'
    cases he'
    show ¬ Late (expiryTime s.time d) d x.unit
    unfold expiryTime
    split_ifs
    · exact hlate x d hd
    · simp [Late]
  · exact mayExpire_iff.mp hm x hx e he

end Sys2Proof.Machine
end

section
/-! PROOFS. What a step can do, said once: every step is a sequence of turns, each one shared operation under the conditions
in which the machine uses it. -/

namespace Sys2Proof.Machine

/-- An operation on the ports, the queues of frames that come in, the flags, the wrapping entries and the time alone: it
leaves the tables, the lanes, the Directive Unit and what is owed in reports as they are. -/
inductive PortTurn : State → State → Prop
  | transmit (s : State) : PortTurn s (transmit s)
  | flag (f : Fin 15) (s : State) : PortTurn s (raise f s)
  | pop (p : PortId) (s : State) : PortTurn s (popIntake p s)
  | judged (q : Queued) (v : Verdict) (s : State) (hq : s.miq.head? = some q) (hb : belongsToRead q s = true) :
      PortTurn s { s with verdict := some v }
  | arrives (p : PortId) (f : Frame) (s : State) (hc : arrivalClass p f.header = .intake)
      (hl : (s.intake p).length < 16) :
      PortTurn s (putIntake p (s.intake p ++ [{ frame := f, damaged := payloadDamaged f }]) s)
  | hears (p : PortId) (f : Flow) (s : State) : PortTurn s (hearFlow p f s)
  | fsqSent (s : State) (h : s.front.sending = some .fsq) :
      PortTurn s { s with front := s.front.sent s.fsq.head?, fsq := s.fsq.tail }
  | mediaSent (s : State) : PortTurn s (mediaSent s)
  | flowSent (p : PortId) (s : State) : PortTurn s (flowSent p s)
  | frontUp (s : State) (h : s.front.link = .down) :
      PortTurn s { s with front := { s.front with link := .up }, autoLock := none }
  | mediaUp (s : State) (h : s.media.link = .down) : PortTurn s { s with media := { s.media with link := .up } }
  | marks (p : PortId) (s : State) : PortTurn s (testMarks p s)
  | clear (m : BitVec 15) (s : State) : PortTurn s { s with events := s.events.clear m }
  | source (r : RandomState) (s : State) : PortTurn s { s with random := r }
  | entries (w : Vector (Option WrappingKey) 4) (s : State) : PortTurn s { s with wrapping := w }
  | autoLockStops (s : State) : PortTurn s { s with autoLock := none }
  | time (x : Time) (s : State) (h : TimersInTime s → TimersInTime { s with time := x }) : PortTurn s { s with time := x }
  | pending (c : List Instr) (s : State) : PortTurn s { s with pending := c }

/-- A slot becomes DRAINING with its drain set, and the unit drains it (R55). -/
def drainBegun (k : SlotIx) (goal : DrainGoal) (timer : Option Time) (s : State) : State :=
  { putSlot k { s.slots[k] with state := .draining, drainSet := drainSetOf k s } s with
    du := some { task := .draining k goal timer, silent := false } }

/-- The Directive Unit is IDLE and a directive waits (R138). -/
abbrev Begins (s : State) : Prop := s.du = none ∧ (firstUnexecuted s.drq).isSome = true

/-- A task that fills a slot (R48, R54). -/
def Task.fills (k : SlotIx) : Task → Prop
  | .filling k' _ _ | .opening k' _ _ => k' = k
  | _ => False

/-- One operation of the machine, under the conditions in which it is used. -/
inductive Turn : State → State → Prop
  | port {s t : State} (h : PortTurn s t) : Turn s t
  | opens (q : Queued) (s : State) (hf : s.contexts[frameTag q.frame].state = .free) : Turn s (takeOpen q s)
  | ends (t : Tag) (e : Ending) (fail : Option Nat) (s : State) : Turn s (endTransfer t e fail s)
  | bypasses (q : Queued) (r : ReadStatus) (s : State) (hq : s.miq.head? = some q) (hb : belongsToRead q s = true)
      (hr : hasRoom .fsq s = true) : Turn s (takeBypass q r s)
  | starts (l : LaneIx) (side : PortId) (q : Queued) (k : SlotIx) (s : State) (hl : s.lanes[l] = .idle)
      (hw : Waits side q s) (hk : candidateSlot q s = some k) : Turn s (startJob l side q k s)
  | completes (l : LaneIx) (j : Job) (s : State) (hl : s.lanes[l] = .running j) : Turn s (completeJob l j s)
  | handsOff (l : LaneIx) (j : Job) (f : Frame) (q : SectorQueue) (s : State) (h : handOffLane q s = some (l, j, f)) :
      Turn s (enterOutput l j f q s)
  | directive (f : Frame) (s : State) (hl : s.drq.length < 8) :
      Turn s { s with drq := s.drq ++ [{ frame := f, damaged := payloadDamaged f, executed := false }] }
  | reportSent (s : State) (h : s.front.sending = some .rpq) : Turn s (frontSent s)
  | frontLost (s : State) : Turn s (frontLoss s)
  | mediaLost (s : State) : Turn s (mediaLoss s)
  | answers (r : Result) (data : Bytes) (s : State) (h : s.du = none) : Turn s (answer r data s)
  | defines (k : RangeIx) (slot : Option SlotIx) (p : Bytes) (s : State) (h : defineRefusal k (rangeParam slot p) s = none) :
      Turn s (putRange k (definedRecord k (rangeParam slot p)) s)
  | disables (k : RangeIx) (s : State) (hk : k ≠ 0) (h : currentExtentBusy k s = false) :
      Turn s (putRange k RangeRecord.disabled s)
  | locks (rt : Vector RangeRecord 16) (s : State) (h : ∀ k : RangeIx, SameButLocks s.ranges[k] rt[k]) :
      Turn s { s with ranges := rt }
  | limits (p : Bytes) (m : BitVec 15) (s : State)
      (hc : 1 ≤ (limitsParam p).ceiling ∧ (limitsParam p).ceiling ≤ Config.maxCeiling ∧ (limitsParam p).selector ≤ 7)
      (hr : rangeBeyond (limitsParam p).ceiling s.ranges = false)
      (hs : spanBeyond (limitsParam p).ceiling s.contexts = false) :
      Turn s { s with limits := limitsParam p, events := s.events.store m }
  | resets (p : Bytes) (s : State) (h : Begins s) : Turn s (resetEngineBody p s)
  | powers (b : Bool) (s : State) : Turn s { State.reset with inReset := b, pending := s.pending }
  | fills (k : SlotIx) (task : Task) (s : State) (hb : Begins s) (hs : s.slots[k].state = .empty) (ht : task.fills k) :
      Turn s { fillingSlot k s with du := some { task := task, silent := false } }
  | fillFails (k : SlotIx) (r : Result) (s : State) (h : filledSlot s = some k) : Turn s (failFilling k r s)
  | fillEnds (k : SlotIx) (dk tk : Key) (g : Generation) (data : Bytes) (s : State) (h : filledSlot s = some k) :
      Turn s (answer .ok data (readySlot k dk tk g s))
  | wraps (k : SlotIx) (e : EntryIx) (g : Generation) (dk tk : Key) (n : Nonce) (silent : Bool) (s : State)
      (h : s.du = some { task := .filling k e g, silent := silent }) :
      Turn s { s with du := some { task := .wrapping k e g dk tk n, silent := silent } }
  | drains (k : SlotIx) (goal : DrainGoal) (timer : Option Time) (s : State) (hb : Begins s)
      (hs : s.slots[k].state = .ready) (ht : timer = none ∨ timer = some (timeAfter s.time (1000 * s.limits.drain))) :
      Turn s (if drainSetOf k s = [] then completeDrain k goal (drainBegun k goal timer s)
        else drainBegun k goal timer s)
  | timerStops (s : State) : Turn s (stopDrainTimer s)

/-- A sequence of turns. -/
abbrev Turns : State → State → Prop := Relation.ReflTransGen Turn

theorem Turn.turns {s t : State} (h : Turn s t) : Turns s t := Relation.ReflTransGen.single h

theorem PortTurn.turns {s t : State} (h : PortTurn s t) : Turns s t := (Turn.port h).turns

/-- A law that every turn keeps is kept by a sequence of them. -/
theorem Turns.keeps {law : State → Prop} (hlaw : ∀ s t, Turn s t → law s → law t) {s t : State} (h : Turns s t) (hs : law s) :
    law t := by
  induction h with
  | refl => exact hs
  | tail _ hturn ih => exact hlaw _ _ hturn ih

theorem Turns.foldl {α : Type} {f : State → α → State} (h : ∀ s a, Turns s (f s a)) (l : List α) (s : State) :
    Turns s (l.foldl f s) := by
  induction l generalizing s with
  | nil => exact .refl
  | cons a as ih => exact (h s a).trans (ih _)

/-! ### The heads -/

theorem raise_turns (f : Fin 15) (s : State) : Turns s (raise f s) := (PortTurn.flag f s).turns

theorem endTransfer_turns (t : Tag) (e : Ending) (fail : Option Nat) (s : State) : Turns s (endTransfer t e fail s) :=
  (Turn.ends t e fail s).turns

theorem popIntake_contexts (p : PortId) (s : State) : (popIntake p s).contexts = s.contexts := by cases p <;> rfl

theorem disposeFront_turns (q : Queued) (s : State) : Turns s (disposeFront q s) := by
  have hpop : Turns s (popIntake .front s) := (PortTurn.pop ..).turns
  unfold disposeFront
  dsimp only
  split_ifs with _ hf
  · exact hpop.trans (Turn.opens q (popIntake .front s) hf).turns
  · exact (hpop.trans (raise_turns ..)).trans (endTransfer_turns ..)
  · split
    · exact hpop
    · exact hpop
    · exact hpop.trans (raise_turns ..)
    · exact hpop.trans (raise_turns ..)
    · exact hpop.trans (raise_turns ..)
    · split
      · exact hpop.trans (endTransfer_turns ..)
      · exact hpop

theorem frontHead_turns (n : Nat) (s : State) : Turns s (frontHead n s) := by
  induction n generalizing s with
  | zero => exact .refl
  | succ n ih =>
    unfold frontHead
    split
    · exact .refl
    · split_ifs
      · exact .refl
      · exact (disposeFront_turns ..).trans (ih _)

theorem judgeHead_turns {q : Queued} {s : State} (hq : s.miq.head? = some q) (hb : belongsToRead q s = true) :
    Turns s (judgeHead q s) := by
  unfold judgeHead
  dsimp only
  split
  · exact (PortTurn.judged q _ s hq hb).turns
  · split_ifs with hr
    · exact (Turn.bypasses q _ s hq hb hr).turns
    · exact (PortTurn.judged q _ s hq hb).turns

/-- What the media head does with its frame: it leaves the queue, with a flag or the ending of its transfer, or belongs to
its transfer, undamaged, and is judged (R73). -/
theorem disposeMedia_cases (q : Queued) (s : State) :
    disposeMedia q s = popIntake .media s ∨
    (∃ f, disposeMedia q s = raise f (popIntake .media s)) ∨
    (∃ t e fail, disposeMedia q s = endTransfer t e fail (popIntake .media s)) ∨
    (belongsToRead q s = true ∧ q.damaged = false ∧ disposeMedia q s = judgeHead q s) := by
  unfold disposeMedia
  dsimp only
  split
  · exact Or.inl rfl
  · exact Or.inl rfl
  · exact Or.inr (Or.inl ⟨_, rfl⟩)
  · exact Or.inr (Or.inl ⟨_, rfl⟩)
  · exact Or.inr (Or.inl ⟨_, rfl⟩)
  · next hs hd =>
    split_ifs with hi hm hdam
    · exact Or.inr (Or.inl ⟨_, rfl⟩)
    · exact Or.inr (Or.inl ⟨_, rfl⟩)
    · exact Or.inr (Or.inr (Or.inl ⟨_, _, _, rfl⟩))
    · refine Or.inr (Or.inr (Or.inr ⟨?_, by simpa using hdam, rfl⟩))
      simp [-Fin.getElem_fin, belongsToRead, hs, hd, hm, not_le.mp hi]

theorem disposeMedia_turns {q : Queued} {s : State} (hq : s.miq.head? = some q) : Turns s (disposeMedia q s) := by
  have hpop : Turns s (popIntake .media s) := (PortTurn.pop ..).turns
  rcases disposeMedia_cases q s with h | ⟨f, h⟩ | ⟨t, e, fail, h⟩ | ⟨hb, _, h⟩ <;> rw [h]
  · exact hpop
  · exact hpop.trans (raise_turns ..)
  · exact hpop.trans (endTransfer_turns ..)
  · exact judgeHead_turns hq hb

theorem mediaHead_turns (n : Nat) (s : State) : Turns s (mediaHead n s) := by
  induction n generalizing s with
  | zero => exact .refl
  | succ n ih =>
    unfold mediaHead
    split_ifs
    · exact .refl
    · split
      · exact .refl
      · next h => exact (disposeMedia_turns (by rw [h]; rfl)).trans (ih _)

theorem heads_turns (s : State) : Turns s (heads s) := (frontHead_turns ..).trans (mediaHead_turns ..)

theorem transmit_turns (s : State) : Turns s (transmit s) := (PortTurn.transmit s).turns

theorem settle_turns (s : State) : Turns s (settle s) := (heads_turns s).trans (transmit_turns _)

theorem serveHeads_turns (s : State) : Turns s (serveHeads s) := by
  unfold serveHeads
  split_ifs
  · exact settle_turns s
  · exact .refl

/-- The outcome is a next state, which a sequence of turns reaches. -/
abbrev Reaches (s : State) (o : Host.Outcome State Fault Refusal) : Prop := ∀ t, o = .next t → Turns s t

theorem reaches_next {s t : State} (h : Turns s t) : Reaches s (.next t) := by
  rintro _ ⟨⟩
  exact h

theorem reaches_atEvent {f : State → State} {s : State} (h : ∀ s, Turns s (f s)) :
    Reaches s (atEvent f s) := by
  refine reaches_next ?_
  split_ifs
  · exact .refl
  · exact (serveHeads_turns s).trans (h _)

/-! ### Arrivals and transmissions -/

theorem receive_turns (p : PortId) (f : Frame) (s : State) : Turns s (receive p f s) := by
  unfold receive
  split_ifs
  · split
    · exact raise_turns ..
    · exact (PortTurn.hears ..).turns
    · unfold enterDirective
      split_ifs with h
      · exact raise_turns ..
      · exact (Turn.directive f s (not_le.mp h)).turns
    · next hc =>
      unfold enterIntake
      split_ifs with h
      · exact (raise_turns ..).trans (endTransfer_turns ..)
      · exact (raise_turns ..).trans (endTransfer_turns ..)
      · exact (PortTurn.arrives p f s hc (not_le.mp h)).turns
  · exact raise_turns ..

theorem frontSent_turns (s : State) : Turns s (frontSent s) := by
  by_cases h : s.front.sending = some .rpq
  · exact (Turn.reportSent s h).turns
  · unfold frontSent
    split
    · next hr => exact absurd hr h
    · next hf => exact (PortTurn.fsqSent s hf).turns
    · exact .refl

/-! ### Lanes -/

theorem startJob_turns {l : LaneIx} {side : PortId} {q : Queued} {k : SlotIx} {s : State} (hl : idleLane s = some l)
    (hg : grantedCandidate s = some (side, q)) (hk : candidateSlot q s = some k) : Turns s (startJob l side q k s) := by
  refine (Turn.starts l side q k s ?_ (grantedCandidate_iff.mp hg).1 hk).turns
  simpa using List.find?_some hl

theorem laneJobStart_reaches (s : State) : Reaches s (execLaneJobStart s) := by
  unfold execLaneJobStart grantLane
  split_ifs
  · exact reaches_next .refl
  · split
    · next hl hg =>
      split
      · next hk => exact reaches_next (((serveHeads_turns s).trans (startJob_turns hl hg hk)).trans (settle_turns _))
      · exact fun _ h => by cases h
    · exact reaches_next (serveHeads_turns s)

theorem laneJobCompletion_turns (l : LaneIx) (s : State) :
    Turns s (match s.lanes[l] with | .running j => transmit (completeJob l j s) | _ => s) := by
  split
  · next j hj => exact (Turn.completes l j s hj).turns.trans (transmit_turns _)
  · exact .refl

theorem handOff_turns (q : SectorQueue) (s : State) :
    Turns s (match handOffLane q s with | some (l, j, f) => transmit (enterOutput l j f q s) | none => s) := by
  split
  · next h => exact (Turn.handsOff _ _ _ q s h).turns.trans (transmit_turns _)
  · exact .refl

/-- The bypass sector that is offered again is the one that waits at the media head, and it finds room (R133). -/
theorem waitingBypass_some {q : Queued} {r : ReadStatus} {s : State} (h : waitingBypass s = some (q, r)) :
    s.miq.head? = some q ∧ s.verdict.bind bypassStatus = some r ∧ belongsToRead q s = true ∧ hasRoom .fsq s = true := by
  unfold waitingBypass at h
  split at h
  · next hm hv =>
    simp only [Option.ite_none_right_eq_some, Bool.and_eq_true, Option.some.injEq, Prod.mk.injEq] at h
    obtain ⟨hc, rfl, rfl⟩ := h
    exact ⟨by rw [hm]; rfl, hv, hc⟩
  · exact nomatch h

theorem bypassOffer_turns (s : State) :
    Turns s (match waitingBypass s with | some (q, r) => settle (takeBypass q r s) | none => s) := by
  split
  · next q r h =>
    obtain ⟨hq, _, hb, hr⟩ := waitingBypass_some h
    exact (Turn.bypasses q r s hq hb hr).turns.trans (settle_turns _)
  · exact .refl

/-! ### Directives -/

/-- The command of a directive is a sequence of turns when its catalogue entry is one, begun by an IDLE unit. -/
theorem directive_reaches {row : DirectiveRow} {body : Bytes → State → State}
    (h : ∀ p s, Begins s → Turns s (body p s)) (s : State) :
    Reaches s (atEvent (fun s => transmit (beginDirective row body s)) s) := by
  refine reaches_atEvent fun s => Relation.ReflTransGen.trans ?_ (transmit_turns _)
  unfold beginDirective
  split
  · next e hdu he =>
    split_ifs
    · exact (Turn.answers _ _ s hdu).turns
    · exact (Turn.answers _ _ s hdu).turns
    · exact h _ s ⟨hdu, by rw [he]; rfl⟩
    · exact .refl
  · exact .refl

theorem answer_turns (r : Result) (data : Bytes) {s : State} (h : Begins s) : Turns s (answer r data s) :=
  (Turn.answers r data s h.1).turns

/-- A sequence of turns that leaves the unit IDLE, and then an answer. -/
theorem Turns.answer {s t : State} (h : Turns s t) (r : Result) (data : Bytes) (hdu : t.du = none) :
    Turns s (answer r data t) :=
  h.trans (Turn.answers r data t hdu).turns

theorem abandonTransferBody_turns (p : Bytes) (s : State) (h : Begins s) : Turns s (abandonTransferBody p s) := by
  unfold abandonTransferBody
  split
  · split_ifs
    · exact ((endTransfer_turns ..).answer _ _ ((endTransfer_calm ..).du h.1)).trans (heads_turns _)
    · exact answer_turns _ _ h
  · exact answer_turns _ _ h

theorem testMarks_turns (p : PortId) (s : State) : Turns s (testMarks p s) := (PortTurn.marks p s).turns

theorem testMarks_du (p : PortId) (s : State) : (testMarks p s).du = s.du := by cases p <;> rfl

theorem setLimitsBody_turns (p : Bytes) (s : State) (h : Begins s) : Turns s (setLimitsBody p s) := by
  unfold setLimitsBody
  dsimp only
  split_ifs with hbad hconf
  · exact answer_turns _ _ h
  · exact answer_turns _ _ h
  · rw [Bool.or_eq_true, not_or, Bool.not_eq_true, Bool.not_eq_true] at hconf
    have hlim : Turns s { s with limits := limitsParam p, events := s.events.store (maskParam p 16) } :=
      (Turn.limits p _ s (by omega) hconf.1 hconf.2).turns
    exact Turns.answer ((hlim.trans (testMarks_turns .front _)).trans (testMarks_turns .media _)) _ _
      ((testMarks_du ..).trans ((testMarks_du ..).trans h.1))

theorem defineRangeBody_turns (p : Bytes) (s : State) (h : Begins s) : Turns s (defineRangeBody p s) := by
  unfold defineRangeBody
  split
  · dsimp only
    split
    · exact answer_turns _ _ h
    · next hr => exact (Turn.defines _ _ p s hr).turns.answer _ _ h.1
  · exact answer_turns _ _ h

theorem disableRangeBody_turns (p : Bytes) (s : State) (h : Begins s) : Turns s (disableRangeBody p s) := by
  unfold disableRangeBody
  split
  · split_ifs with hk hb
    · exact answer_turns _ _ h
    · exact answer_turns _ _ h
    · exact (Turn.disables _ s hk (by simpa using hb)).turns.answer _ _ h.1
  · exact answer_turns _ _ h

/-- Writing the two locks of a range changes no more than locks (R33). -/
theorem putRange_locks (k : RangeIx) (r w : Bool) (s : State) :
    Turns s (putRange k { s.ranges[k] with readLock := r, writeLock := w } s) := by
  refine (Turn.locks _ s fun j => ?_).turns
  rw [set_get]
  split_ifs with h
  · subst h; rfl
  · rfl

theorem setLocksBody_turns (p : Bytes) (s : State) (h : Begins s) : Turns s (setLocksBody p s) := by
  unfold setLocksBody
  split
  · exact (putRange_locks ..).answer _ _ h.1
  · exact answer_turns _ _ h

theorem queryRangeBody_turns (p : Bytes) (s : State) (h : Begins s) : Turns s (queryRangeBody p s) := by
  unfold queryRangeBody
  split <;> exact answer_turns _ _ h

theorem querySlotBody_turns (p : Bytes) (s : State) (h : Begins s) : Turns s (querySlotBody p s) := by
  unfold querySlotBody
  split <;> exact answer_turns _ _ h

theorem queryContextBody_turns (p : Bytes) (s : State) (h : Begins s) : Turns s (queryContextBody p s) := by
  unfold queryContextBody
  split <;> exact answer_turns _ _ h

theorem clearEventsBody_turns (p : Bytes) (s : State) (h : Begins s) : Turns s (clearEventsBody p s) :=
  (PortTurn.clear _ s).turns.answer _ _ h.1

theorem putEntry_turns (e : EntryIx) (w : Option WrappingKey) (s : State) : Turns s (putEntry e w s) :=
  (PortTurn.entries _ s).turns

theorem setWrappingKeyBody_turns (p : Bytes) (s : State) (h : Begins s) : Turns s (setWrappingKeyBody p s) := by
  unfold setWrappingKeyBody
  split
  · exact (putEntry_turns ..).answer _ _ h.1
  · exact answer_turns _ _ h

theorem clearWrappingKeyBody_turns (p : Bytes) (s : State) (h : Begins s) : Turns s (clearWrappingKeyBody p s) := by
  unfold clearWrappingKeyBody
  split
  · exact (putEntry_turns ..).answer _ _ h.1
  · exact answer_turns _ _ h

theorem generateKeyBody_turns (p : Bytes) (s : State) (h : Begins s) : Turns s (generateKeyBody p s) := by
  unfold generateKeyBody
  split
  · split_ifs with hs
    · exact answer_turns _ _ h
    · exact answer_turns _ _ h
    · exact answer_turns _ _ h
    · exact (Turn.fills _ _ s h (not_not.mp hs) (by exact rfl)).turns
  · exact answer_turns _ _ h

theorem installKeyBody_turns (p : Bytes) (s : State) (h : Begins s) : Turns s (installKeyBody p s) := by
  unfold installKeyBody
  split
  · dsimp only
    split_ifs with hs
    · exact answer_turns _ _ h
    · exact answer_turns _ _ h
    · exact answer_turns _ _ h
    · exact (Turn.fills _ _ s h (not_not.mp hs) (by exact rfl)).turns
  · exact answer_turns _ _ h

theorem cutTransfers_turns (ts : List Tag) (s : State) : Turns s (cutTransfers ts s) :=
  Turns.foldl (fun s t => endTransfer_turns t _ _ s) ts s

theorem beginDrain_turns {k : SlotIx} (goal : DrainGoal) (mode : DrainMode) {s : State} (h : Begins s)
    (hs : s.slots[k].state = .ready) : Turns s (beginDrain k goal mode s) := by
  unfold beginDrain
  dsimp only
  by_cases he : drainSetOf k s = []
  · rw [if_pos (List.isEmpty_iff.mpr he), if_pos (List.isEmpty_iff.mpr he)]
    have hd := (Turn.drains k goal none s h hs (Or.inl rfl)).turns
    rw [if_pos he] at hd
    cases mode <;> exact hd
  · have he' : ¬ (drainSetOf k s).isEmpty = true := fun h => he (List.isEmpty_iff.mp h)
    rw [if_neg he', if_neg he']
    cases mode with
    | wait =>
      have hd := (Turn.drains k goal _ s h hs (Or.inr rfl)).turns
      rw [if_neg he] at hd
      exact hd
    | cut =>
      have hd := (Turn.drains k goal none s h hs (Or.inl rfl)).turns
      rw [if_neg he] at hd
      exact (hd.trans (cutTransfers_turns ..)).trans (heads_turns _)

theorem rekeySlotBody_turns (p : Bytes) (s : State) (h : Begins s) : Turns s (rekeySlotBody p s) := by
  unfold rekeySlotBody
  split
  · dsimp only
    split_ifs with hs
    · exact answer_turns _ _ h
    · exact answer_turns _ _ h
    · exact answer_turns _ _ h
    · exact answer_turns _ _ h
    · exact beginDrain_turns _ _ h (not_not.mp hs)
  · exact answer_turns _ _ h

theorem discardKeyBody_turns (p : Bytes) (s : State) (h : Begins s) : Turns s (discardKeyBody p s) := by
  unfold discardKeyBody
  split
  · split_ifs with hs
    · exact answer_turns _ _ h
    · exact beginDrain_turns _ _ h (not_not.mp hs)
  · exact answer_turns _ _ h

/-! ### The Random Source and the ends of computations -/

theorem randomFails_turns (s : State) : Turns s (randomFails s) := by
  have hr : Turns s (raise Flag.randomFail { s with random := .failed }) :=
    (PortTurn.source .failed s).turns.trans (raise_turns ..)
  unfold randomFails
  dsimp only
  split
  · next k e g silent hdu => exact hr.trans (Turn.fillFails k _ _ (by unfold filledSlot; rw [hdu])).turns
  · exact hr

theorem startUpTestEnds_turns (passed : Bool) (s : State) : Turns s (startUpTestEnds passed s) := by
  unfold startUpTestEnds
  split_ifs
  · exact (PortTurn.source ..).turns
  · exact randomFails_turns s
  · exact .refl

theorem runningTestFails_turns (s : State) : Turns s (runningTestFails s) := by
  unfold runningTestFails
  split_ifs
  · exact randomFails_turns s
  · exact .refl

theorem makeSlotRecord_turns {k : SlotIx} (e : EntryIx) (g : Generation) (dk tk : Key) (n : Nonce) {s : State}
    (h : filledSlot s = some k) : Turns s (makeSlotRecord k e g dk tk n s) := by
  unfold makeSlotRecord
  split
  · exact (Turn.fillFails k _ s h).turns
  · exact (Turn.fillEnds k dk tk g _ s h).turns

theorem fillEnds_turns (dk tk : Key) (n : Nonce) (atOnce : Bool) (s : State) : Turns s (fillEnds dk tk n atOnce s) := by
  unfold fillEnds
  split
  · next k e g silent hdu _ =>
    split_ifs
    · exact makeSlotRecord_turns _ _ _ _ _ (by unfold filledSlot; rw [hdu])
    · exact (Turn.wraps k e g dk tk n silent s hdu).turns
  · exact .refl

theorem wrappingEnds_turns (s : State) : Turns s (wrappingEnds s) := by
  unfold wrappingEnds
  split
  · next hdu => exact makeSlotRecord_turns _ _ _ _ _ (by unfold filledSlot; rw [hdu])
  · exact .refl

theorem openingEnds_turns (s : State) : Turns s (openingEnds s) := by
  unfold openingEnds
  split
  · next k e record silent hdu =>
    have hf : filledSlot s = some k := by unfold filledSlot; rw [hdu]
    split
    · exact (Turn.fillFails k _ s hf).turns
    · split
      · exact (Turn.fillFails k _ s hf).turns
      · exact (Turn.fillEnds k _ _ _ _ s hf).turns
  · exact .refl

theorem zeroiseEntries_turns (s : State) : Turns s (zeroiseEntries s) := by
  have hw : Turns s { s with wrapping := Vector.replicate 4 none } := (PortTurn.entries ..).turns
  unfold zeroiseEntries
  dsimp only
  split
  all_goals first
    | exact hw
    | next hdu => exact hw.trans (Turn.fillFails _ _ _ (by unfold filledSlot; rw [hdu])).turns

/-! ### Timers -/

theorem lockRanges_turns (s : State) : Turns s (lockRanges s) := by
  rw [lockRanges_eq]
  refine (Turn.locks _ s fun k => ?_).turns
  have hk : (s.ranges.map lockedRecord)[k] = lockedRecord s.ranges[k] := by simp
  rw [hk]
  exact lockedRecord_sameButLocks _

theorem expireAutoLock_turns (s : State) : Turns s (expireAutoLock s) :=
  (((PortTurn.autoLockStops s).turns.trans (lockRanges_turns _)).trans (raise_turns ..)).trans (zeroiseEntries_turns _)

theorem expireDrain_turns (k : SlotIx) (s : State) : Turns s (expireDrain k s) :=
  (((Turn.timerStops s).turns.trans (raise_turns ..)).trans (cutTransfers_turns ..)).trans (heads_turns _)

theorem expireIdle_turns (t : Tag) (s : State) : Turns s (expireIdle t s) := by
  unfold expireIdle
  split_ifs
  · exact (endTransfer_turns ..).trans (heads_turns _)
  · exact .refl

theorem autoLockDue_turns (s : State) : Turns s (autoLockDue s) := by
  unfold autoLockDue
  split
  · split_ifs
    · exact (expireAutoLock_turns s).trans (transmit_turns _)
    · exact .refl
  · exact .refl

theorem drainDue_turns (s : State) : Turns s (drainDue s) := by
  unfold drainDue
  split
  · split_ifs
    · exact (expireDrain_turns ..).trans (transmit_turns _)
    · exact .refl
  · exact .refl

theorem idleDue_turns (t : Tag) (s : State) : Turns s (idleDue t s) := by
  unfold idleDue
  split
  · split_ifs
    · exact (expireIdle_turns ..).trans (transmit_turns _)
    · exact .refl
  · exact .refl

theorem expiredAll_turns (s : State) : Turns s (expiredAll s) :=
  (((serveHeads_turns s).trans (autoLockDue_turns _)).trans (drainDue_turns _)).trans
    (Turns.foldl (fun s t => idleDue_turns t s) _ _)

theorem tick_turns (s : State) : Turns s (tick s) := by
  cases h : s.inReset with
  | true =>
    unfold tick
    rw [h]
    exact .refl
  | false =>
    rw [tick_eq h]
    refine (expiredAll_turns s).trans (PortTurn.time _ _ fun hin => ?_).turns
    have hl : LimitsStored s := by rw [LimitsStored, ← (expiredAll_brisk s).limits]; exact hin.1
    exact timersInTime_succ hin.1 (expiredAll_noneDue hl)

/-! ### Steps -/

theorem idleDeadlineExpiry_turns (t : Tag) (s : State) :
    Turns s (match s.contexts[t].deadline with
      | some d => if s.contexts[t].state = .active ∧ mayExpire (.idle t) d s
          then transmit (expireIdle t { s with time := expiryTime s.time d }) else s
      | none => s) := by
  split
  · next d hd =>
    split_ifs with h
    · have hdl : s.deadlineOf (.idle t) = some d := by
        simp only [State.deadlineOf]
        rw [if_pos h.1, hd]
      exact ((PortTurn.time _ s (timersInTime_expiry hdl h.2)).turns.trans (expireIdle_turns ..)).trans (transmit_turns _)
    · exact .refl
  · exact .refl

theorem drainTimerExpiry_turns (s : State) :
    Turns s (match runningDrain s with
      | some (k, d) => if mayExpire .drain d s
          then transmit (expireDrain k { s with time := expiryTime s.time d }) else s
      | none => s) := by
  split
  · next k d hd =>
    split_ifs with h
    · have hdl : s.deadlineOf .drain = some d := by rw [← runningDrain_deadline, hd]; rfl
      exact ((PortTurn.time _ s (timersInTime_expiry hdl h)).turns.trans (expireDrain_turns ..)).trans (transmit_turns _)
    · exact .refl
  · exact .refl

theorem autoLockExpiry_turns (s : State) :
    Turns s (match s.autoLock with
      | some d => if mayExpire .autoLock d s
          then transmit (expireAutoLock { s with time := expiryTime s.time d }) else s
      | none => s) := by
  split
  · next d hd =>
    split_ifs with h
    · exact ((PortTurn.time _ s (timersInTime_expiry (id := .autoLock) hd h)).turns.trans (expireAutoLock_turns _)).trans (transmit_turns _)
    · exact .refl
  · exact .refl

theorem frameArrival_reaches (p : PortId) (f : Frame) (s : State) : Reaches s (execFrameArrival p f s) := by
  refine reaches_atEvent fun s => ?_
  split_ifs
  · exact .refl
  · exact (receive_turns p f s).trans (settle_turns _)

theorem holdArrival_reaches (p : PortId) (s : State) : Reaches s (execHoldArrival p s) := by
  refine reaches_atEvent fun s => ?_
  split_ifs
  · exact .refl
  · exact (PortTurn.hears p .hold s).turns.trans (transmit_turns _)

theorem goArrival_reaches (p : PortId) (s : State) : Reaches s (execGoArrival p s) := by
  refine reaches_atEvent fun s => ?_
  split_ifs
  · exact .refl
  · exact (PortTurn.hears p .go s).turns.trans (transmit_turns _)

theorem frontLinkDown_reaches (s : State) : Reaches s (execFrontLinkDown s) := by
  refine reaches_next ?_
  split_ifs
  · exact .refl
  · exact (Turn.frontLost s).turns.trans (transmit_turns _)

theorem frontLinkUp_reaches (s : State) : Reaches s (execFrontLinkUp s) := by
  refine reaches_next ?_
  split_ifs with h
  · exact .refl
  · have hd : s.front.link = .down := by cases hl : s.front.link <;> simp_all
    exact (PortTurn.frontUp s hd).turns.trans (transmit_turns _)

theorem mediaLinkDown_reaches (s : State) : Reaches s (execMediaLinkDown s) := by
  refine reaches_next ?_
  split_ifs
  · exact .refl
  · exact (Turn.mediaLost s).turns.trans (transmit_turns _)

theorem mediaLinkUp_reaches (s : State) : Reaches s (execMediaLinkUp s) := by
  refine reaches_next ?_
  split_ifs with h
  · exact .refl
  · have hd : s.media.link = .down := by cases hl : s.media.link <;> simp_all
    exact (PortTurn.mediaUp s hd).turns.trans (transmit_turns _)

/-- Every command that answers a next state reaches it by turns. -/
theorem exec_reaches (c : Instr) (s : State) : Reaches s (exec c s) := by
  cases c with
  | powerOn => exact reaches_next (Turn.powers false s).turns
  | powerOnResetAsserted => exact reaches_next (Turn.powers true s).turns
  | frontLinkDown => exact frontLinkDown_reaches s
  | frontLinkUp => exact frontLinkUp_reaches s
  | mediaLinkDown => exact mediaLinkDown_reaches s
  | mediaLinkUp => exact mediaLinkUp_reaches s
  | frameArrival p f => exact frameArrival_reaches p f s
  | holdArrival p => exact holdArrival_reaches p s
  | goArrival p => exact goArrival_reaches p s
  | laneJobStart => exact laneJobStart_reaches s
  | laneJobCompletion l => exact reaches_atEvent (laneJobCompletion_turns l)
  | handOff q => exact reaches_atEvent (handOff_turns q)
  | bypassOffer => exact reaches_atEvent bypassOffer_turns
  | frontFrameSent => exact reaches_atEvent fun s => (frontSent_turns s).trans (transmit_turns _)
  | mediaFrameSent => exact reaches_atEvent fun s => (PortTurn.mediaSent s).turns.trans (transmit_turns _)
  | flowFrameSent p => exact reaches_atEvent fun s => (PortTurn.flowSent p s).turns.trans (transmit_turns _)
  | idleDeadlineExpiry t => exact reaches_atEvent (idleDeadlineExpiry_turns t)
  | drainTimerExpiry => exact reaches_atEvent drainTimerExpiry_turns
  | autoLockExpiry => exact reaches_atEvent autoLockExpiry_turns
  | startUpTestComplete passed =>
    exact reaches_atEvent fun s => (startUpTestEnds_turns passed s).trans (transmit_turns _)
  | runningTestFailure => exact reaches_atEvent fun s => (runningTestFails_turns s).trans (transmit_turns _)
  | fillEnd dk tk n atOnce => exact reaches_atEvent fun s => (fillEnds_turns dk tk n atOnce s).trans (transmit_turns _)
  | wrappedRecordMade => exact reaches_atEvent fun s => (wrappingEnds_turns s).trans (transmit_turns _)
  | recordOpeningEnd => exact reaches_atEvent fun s => (openingEnds_turns s).trans (transmit_turns _)
  | defineRange => exact directive_reaches defineRangeBody_turns s
  | disableRange => exact directive_reaches disableRangeBody_turns s
  | setLocks => exact directive_reaches setLocksBody_turns s
  | setWrappingKey => exact directive_reaches setWrappingKeyBody_turns s
  | clearWrappingKey => exact directive_reaches clearWrappingKeyBody_turns s
  | generateKey => exact directive_reaches generateKeyBody_turns s
  | installKey => exact directive_reaches installKeyBody_turns s
  | rekeySlot => exact directive_reaches rekeySlotBody_turns s
  | discardKey => exact directive_reaches discardKeyBody_turns s
  | abandonTransfer => exact directive_reaches abandonTransferBody_turns s
  | setLimits => exact directive_reaches setLimitsBody_turns s
  | queryEngine => exact directive_reaches (fun _ s h => answer_turns _ _ h) s
  | queryRange => exact directive_reaches queryRangeBody_turns s
  | querySlot => exact directive_reaches querySlotBody_turns s
  | queryContext => exact directive_reaches queryContextBody_turns s
  | queryLimits => exact directive_reaches (fun _ s h => answer_turns _ _ h) s
  | clearEvents => exact directive_reaches clearEventsBody_turns s
  | resetEngine => exact directive_reaches (fun p s h => (Turn.resets p s h).turns) s
  | unknownDirective => exact directive_reaches (fun _ s h => answer_turns _ _ h) s

/-- Every step that answers a next state is a sequence of turns. -/
theorem step_turns {s t : State} (h : step s = .next t) : Turns s t := by
  unfold step at h
  split at h
  · next c rest _ => exact (PortTurn.pending rest s).turns.trans (exec_reaches c _ t h)
  · cases h
    exact tick_turns s

/-- A law that every turn keeps is kept by every step. -/
theorem stepKeeps_of_turn {law : State → Prop} (h : ∀ s t, Turn s t → law s → law t) : StepKeeps law :=
  fun _ _ hs hstep => (step_turns hstep).keeps h hs

end Sys2Proof.Machine
end

section
/-! PROOFS. The plain laws along a run: ATTENTION (R149), the Range Table (R22, R23), the bounds of the queues (R86), flow
control (R93, R99), the timers (R157), and the transmitters, which choose at the end of every event (R96, R97). -/

namespace Sys2Proof.Machine

/-- The plain laws hold on. -/
structure KeepsPlain (s t : State) : Prop where
  attention : AttentionTells s → AttentionTells t
  ranges : RangesDisjoint s → RangesDisjoint t
  queues : QueuesBounded s → QueuesBounded t
  flow : FlowControl s → FlowControl t
  timers : TimersInTime s → TimersInTime t

theorem Brisk.plain {s t : State} (h : Brisk s t) : KeepsPlain s t where
  attention := h.attention
  ranges := h.ranges
  queues := h.queues
  flow := fun ⟨hf, hm⟩ => ⟨h.front hf, h.media hm⟩
  timers := h.timersInTime

/-! ### Ports and queues -/

theorem flowAgrees_sent {x : Port} {f : Option Frame} (h : ∀ y, x.sending ≠ some (.flow y)) :
    FlowAgrees (x.sent f) = FlowAgrees x := by
  unfold FlowAgrees Port.sent
  rcases hs : x.sending with _ | _ | _ | _ | _
  · rfl
  · exact absurd hs (h _)
  all_goals rfl

/-- A flow frame that has been sent is no longer pending, and the flow control is in step (R93, R99). -/
theorem flowAgrees_flowSent {x : Port} {f : Flow} {g : Option Frame} (hs : x.sending = some (.flow f))
    (h : FlowAgrees x = true) :
    FlowAgrees { x.sent g with pendingFlow := if x.pendingFlow = some f then none else x.pendingFlow } = true := by
  unfold FlowAgrees at h
  rw [hs] at h
  cases f <;> rcases hp : x.pendingFlow with _ | _ | _ <;> simp_all [FlowAgrees, Port.sent]

theorem flowAgrees_engineReset {x : Port} (h : FlowAgrees x = true) : FlowAgrees x.engineReset = true := by
  unfold FlowAgrees Port.engineReset at *
  rcases hs : x.sending with _ | (_ | _) | _ | _ | _ <;> rcases ht : x.told with _ | _ | _ <;> simp_all

theorem flowAgrees_lost (x : Port) : FlowAgrees x.lost = true := rfl

theorem testMarks_brisk (p : PortId) (s : State) : Brisk s (testMarks p s) := by
  cases p
  · exact { Brisk.refl s with front := flowAgrees_markTest _ _ _ }
  · exact { Brisk.refl s with media := flowAgrees_markTest _ _ _ }

theorem putIntake_brisk (p : PortId) {q : List Queued} (s : State) (h : q.length ≤ 16) : Brisk s (putIntake p q s) := by
  refine Brisk.trans ?_ (testMarks_brisk p _)
  cases p
  · exact { Brisk.refl s with queues := fun ⟨_, h2⟩ => ⟨h, h2⟩ }
  · exact { Brisk.refl s with queues := fun ⟨h1, _, h3⟩ => ⟨h1, h, h3⟩ }

theorem flowSent_brisk (p : PortId) (s : State) : Brisk s (flowSent p s) := by
  unfold flowSent
  split
  · next f hf =>
    refine Brisk.trans ?_ (testMarks_brisk p _)
    cases p
    · exact { Brisk.refl s with front := flowAgrees_flowSent hf }
    · exact { Brisk.refl s with media := flowAgrees_flowSent hf }
  · exact .refl s

theorem mediaSent_brisk (s : State) : Brisk s (mediaSent s) := by
  unfold mediaSent
  split
  · next h =>
    exact { Brisk.refl s with
      queues := fun ⟨h1, h2, h3, h4, h5⟩ => ⟨h1, h2, h3, (List.tail_suffix _).length_le.trans h4, h5⟩
      media := fun hm => (flowAgrees_sent fun y => by rw [h]; exact nofun).trans hm }
  · exact .refl s

theorem fsqSent_brisk {s : State} (h : s.front.sending = some .fsq) :
    Brisk s { s with front := s.front.sent s.fsq.head?, fsq := s.fsq.tail } :=
  { Brisk.refl s with
    queues := fun ⟨h1, h2, h3, h4, h5⟩ => ⟨h1, h2, h3, h4, (List.tail_suffix _).length_le.trans h5⟩
    front := fun hf => (flowAgrees_sent fun y => by rw [h]; exact nofun).trans hf }

theorem hearFlow_brisk (p : PortId) (f : Flow) (s : State) : Brisk s (hearFlow p f s) := by
  cases p
  · exact { Brisk.refl s with front := id }
  · exact { Brisk.refl s with media := id }

theorem PortTurn.plain {s t : State} (h : PortTurn s t) : KeepsPlain s t := by
  cases h with
  | transmit => exact (transmit_brisk s).plain
  | flag f => exact (raise_brisk f s).plain
  | pop p => exact (popIntake_calm p s).brisk.plain
  | judged => exact Brisk.plain { Brisk.refl s with }
  | arrives p f _ hc hl => exact (putIntake_brisk p s (by simpa using hl)).plain
  | hears p f => exact (hearFlow_brisk p f s).plain
  | fsqSent _ h => exact (fsqSent_brisk h).plain
  | mediaSent => exact (mediaSent_brisk s).plain
  | flowSent p => exact (flowSent_brisk p s).plain
  | frontUp => exact Brisk.plain { autoLock_stops_brisk s with front := id }
  | mediaUp => exact Brisk.plain { Brisk.refl s with media := id }
  | marks p => exact (testMarks_brisk p s).plain
  | clear m => exact Brisk.plain { Brisk.refl s with attention := fun _ => attention_evaluate _ _ }
  | source => exact Brisk.plain { Brisk.refl s with }
  | entries => exact Brisk.plain { Brisk.refl s with }
  | autoLockStops => exact (autoLock_stops_brisk s).plain
  | time x _ h => exact ⟨id, id, id, id, h⟩
  | pending => exact ⟨id, id, id, id, id⟩

/-! ### Lanes -/

theorem startJob_brisk (l : LaneIx) (side : PortId) (q : Queued) (k : SlotIx) (s : State) :
    Brisk s (startJob l side q k s) := by
  have hslot : Brisk s (putSlot k { s.slots[k] with pins := s.slots[k].pins + 1 } s) := { Brisk.refl s with }
  have hturn (x : State) : Brisk x { x with laneTurn := turnAfterGrant side } := { Brisk.refl x with }
  have hput (c : Context) (x : State) : Brisk x (putContext (frameTag q.frame)
      (c.take (idleDeadline x) (frameIndex q.frame) 1) x) :=
    .putContext fun ha => Or.inr (take_deadline _ _ _ _ ha)
  have hlane (y : Lane) (x : State) : Brisk x (putLane l y x) := { Brisk.refl x with }
  exact (((hslot.trans (hturn _)).trans (popIntake_calm side _).brisk).trans (hput ..)).trans (hlane ..)

theorem enterOutput_brisk (l : LaneIx) (j : Job) (f : Frame) {target : SectorQueue} {s : State}
    (h : sectorDepth target s < 16) : Brisk s (enterOutput l j f target s) := by
  have hrel : Brisk s (releaseLane l j s) := (releaseLane_calm l j s).brisk
  have hend (x : State) : Brisk x (leaveEnding j.tag (finishTransfer j.tag x)) :=
    ((finishTransfer_calm ..).trans (leaveEnding_calm ..)).brisk
  cases target with
  | moq =>
    have hput (x : State) : Brisk x (putContext j.tag
        { x.contexts[j.tag] with finished := x.contexts[j.tag].finished + 1 } x) :=
      .putContext fun ha => Or.inl ⟨ha, rfl⟩
    have hq (x : State) (hx : x.moq.length < 16) : Brisk x { x with moq := x.moq ++ [f] } :=
      .queued fun ⟨h1, h2, h3, h4, h5⟩ => ⟨h1, h2, h3, by simpa using hx, h5⟩
    exact ((hrel.trans (hput _)).trans (hq _ h)).trans (hend _)
  | fsq => exact (hrel.trans (deliver_brisk _ _ _ h)).trans (hend _)

theorem completeJob_brisk (l : LaneIx) (j : Job) (s : State) : Brisk s (completeJob l j s) := by
  unfold completeJob offerOutput
  split_ifs with _ hr
  · refine enterOutput_brisk l j _ ?_
    cases ht : targetQueue j <;> rw [ht, hasRoom, Bool.and_eq_true, decide_eq_true_eq] at hr <;> exact hr.1
  · unfold holdOutput
    split <;> exact { Brisk.refl s with }
  · exact (discardOutput_calm l j s).brisk

/-- A free place is handed to the first lane of the hold list, which holds its output (R110). -/
theorem handOffLane_some {l : LaneIx} {j : Job} {f : Frame} {q : SectorQueue} {s : State}
    (h : handOffLane q s = some (l, j, f)) :
    (holdList q s).head? = some l ∧ sectorDepth q s < 16 ∧ ∃ q', s.lanes[l] = .holding j f q' := by
  unfold handOffLane at h
  split at h
  · cases h
  · next l' ls hl =>
    split_ifs at h with hd
    split at h
    · next q' hx =>
      simp only [Option.some.injEq, Prod.mk.injEq] at h
      obtain ⟨rfl, rfl, rfl⟩ := h
      exact ⟨by rw [hl]; rfl, hd, q', hx⟩
    · cases h

/-! ### Link losses -/

theorem executingEntries_length (s : State) : (executingEntries s).length ≤ 1 := by
  unfold executingEntries
  split
  · exact Nat.zero_le 1
  · cases firstUnexecuted s.drq <;> simp

/-- The span of the auto-lock timer is less than half of the time base (Table 10-2). -/
theorem autoLockSpan_lt {selector n : Nat} (hs : selector ≤ 7) (h : autoLockSpan selector = some n) : n < 2 ^ 63 := by
  unfold autoLockSpan at h
  split_ifs at h
  injection h with h
  have : 2 ^ (selector - 1) ≤ 2 ^ 6 := Nat.pow_le_pow_right (by decide) (by omega)
  omega

/-- What a front link loss does at once, before the contexts are treated (R152). -/
def frontCut (s : State) : State :=
  { s with
    front := s.front.lost, fiq := [], fsq := [], rpq := [], drq := executingEntries s,
    du := s.du.map (fun x => { x with silent := true }),
    autoLock := (autoLockSpan s.limits.selector).map (timeAfter s.time) }

theorem frontLoss_eq (s : State) : frontLoss s = allTags.foldl (fun s t => frontLossContext t s) (frontCut s) := rfl

theorem frontCut_drain (s : State) : (frontCut s).deadlineOf .drain = s.deadlineOf .drain := by
  unfold State.deadlineOf frontCut
  rcases s.du with _ | ⟨_ | _ | _ | _, _⟩ <;> rfl

theorem frontCut_brisk (s : State) : Brisk s (frontCut s) := by
  refine { Brisk.refl s with queues := ?_, front := fun _ => flowAgrees_lost _, timers := fun hl x d hd => ?_ }
  · rintro ⟨_, h2, _, h4, _⟩
    exact ⟨Nat.zero_le _, h2, (executingEntries_length s).trans (by decide), h4, Nat.zero_le _⟩
  · cases x with
    | autoLock =>
      obtain ⟨n, hn, rfl⟩ := Option.map_eq_some_iff.mp (show Option.map _ _ = some d from hd)
      exact Or.inr ⟨n, autoLockSpan_lt hl.2.2 hn, rfl⟩
    | drain => exact Or.inl (by rwa [frontCut_drain] at hd)
    | idle t => exact Or.inl hd

theorem frontLoss_brisk (s : State) : Brisk s (frontLoss s) :=
  (frontCut_brisk s).trans (Calm.foldl (fun s t => frontLossContext_calm t s) _ _).brisk

/-- What a media link loss does at once: the port is DOWN, its queues are empty, and the sector that waited at the front head
for a lane is gone (R111, R154). -/
def mediaCut (s : State) : State :=
  discardWaitingSector { s with media := s.media.lost, miq := [], moq := [], verdict := none }

/-- The transfers and the held outputs that a media link loss ends (R85, R111). -/
def mediaEnds (s : State) : State :=
  allLanes.foldl (fun s l => discardHeldWrite l s) (allTags.foldl (fun s t => endTransfer t .mediaLost none s) s)

theorem mediaLoss_eq (s : State) :
    mediaLoss s = { mediaEnds { mediaCut s with fiq := [] } with fiq := (mediaCut s).fiq } := rfl

theorem mediaEnds_calm (s : State) : Calm s (mediaEnds s) :=
  (Calm.foldl (fun s t => endTransfer_calm t _ _ s) _ _).trans (Calm.foldl (fun s l => discardHeldWrite_calm l s) _ _)

theorem discardWaitingSector_calm (s : State) : Calm s (discardWaitingSector s) := by
  unfold discardWaitingSector
  split
  · split_ifs
    · exact popIntake_calm ..
    · exact .refl s
  · exact .refl s

theorem mediaCut_brisk (s : State) : Brisk s (mediaCut s) := by
  refine Brisk.trans ?_ (discardWaitingSector_calm _).brisk
  exact { Brisk.refl s with
    queues := fun ⟨h1, _, h3, _, h5⟩ => ⟨h1, Nat.zero_le _, h3, Nat.zero_le _, h5⟩
    media := fun _ => flowAgrees_lost _ }

/-- A front intake queue that stands by while the rest of the state changes stays as it is. -/
theorem Brisk.behind {s t : State} (h : Brisk { s with fiq := [] } t) : Brisk s { t with fiq := s.fiq } where
  time := h.time
  limits := h.limits
  ranges := h.ranges
  attention := h.attention
  queues := fun ⟨h1, hrest⟩ => ⟨h1, (h.queues ⟨Nat.zero_le _, hrest⟩).2⟩
  front := h.front
  media := h.media
  timers := h.timers

theorem mediaEnds_behind_brisk (s : State) : Brisk s { mediaEnds { s with fiq := [] } with fiq := s.fiq } :=
  (mediaEnds_calm _).brisk.behind

theorem mediaLoss_brisk (s : State) : Brisk s (mediaLoss s) := (mediaCut_brisk s).trans (mediaEnds_behind_brisk _)

/-! ### Ranges and limits -/

/-- An accepted DEFINE RANGE keeps the law of the Range Table (R22, R23, R29). -/
theorem rangesDisjoint_defined {k : RangeIx} {r : RangeRecord} {s : State} (he : r.enabled = true)
    (h : defineRefusal k r s = none) (hs : RangesDisjoint s) : RangesDisjoint (putRange k (definedRecord k r) s) := by
  obtain ⟨hceiling, hglobal, hrest⟩ := hs
  unfold defineRefusal at h
  by_cases hk : k = 0
  · subst hk
    refine ⟨hceiling, by simp [definedRecord, he], fun j hj => ?_⟩
    obtain ⟨hon, hoff⟩ := hrest j hj
    simp only [putRange_ranges, set_get_ne _ _ hj.symm]
    refine ⟨fun hej => ?_, hoff⟩
    obtain ⟨h1, h2, h3⟩ := hon hej
    refine ⟨h1, h2, fun i hi hij => ?_⟩
    rw [set_get_ne _ _ hi.symm]
    exact h3 i hi hij
  · rw [if_neg hk] at h
    split_ifs at h with hlen hstop hover hbusy
    have hd : definedRecord k r = r := if_neg hk
    have h0 : (0 : RangeIx) ≠ k := fun e => hk e.symm
    rw [hd]
    have hmeet (j : RangeIx) (hj : j ≠ 0) (hjk : j ≠ k) (hej : s.ranges[j].enabled = true) :
        ¬ Meets s.ranges[j].start (s.ranges[j].start + s.ranges[j].length) r.start (r.start + r.length) :=
      fun hm => hover ((overlapsOther_iff s k r).mpr ⟨j, hj, hjk, hej, hm⟩)
    have hzero : (s.ranges.set k r)[(0 : RangeIx)] = s.ranges[(0 : RangeIx)] := set_get_ne _ _ hk
    refine ⟨hceiling, ?_, fun j hj => ?_⟩
    · rw [putRange_ranges]
      exact hzero ▸ hglobal
    · simp only [putRange_ranges, putRange_limits]
      by_cases hjk : k = j
      · subst hjk
        simp only [set_get_self]
        refine ⟨fun _ => ⟨by omega, not_lt.mp hstop, fun i hi hik => ?_⟩, fun hf => ?_⟩
        · rw [set_get_ne _ _ hik.symm]
          exact hmeet i hi hik
        · rw [he] at hf
          cases hf
      · obtain ⟨hon, hoff⟩ := hrest j hj
        rw [set_get_ne _ _ hjk]
        refine ⟨fun hej => ?_, hoff⟩
        obtain ⟨h1, h2, h3⟩ := hon hej
        refine ⟨h1, h2, fun i hi hij => ?_⟩
        by_cases hki : k = i
        · subst hki
          simp only [set_get_self]
          have := hmeet j hj (Ne.symm hjk) hej
          intro _ hm
          exact this ⟨hm.2.1, hm.1, hm.2.2.2, hm.2.2.1⟩
        · rw [set_get_ne _ _ hki]
          exact h3 i hi hij

/-- New limits below which every range ends keep the law of the Range Table (R22, R142). -/
theorem rangesDisjoint_limits {l : Limits} {e : Events} {s : State} (hl : 1 ≤ l.ceiling) (hu : l.ceiling ≤ 2 ^ 40)
    (hr : rangeBeyond l.ceiling s.ranges = false) (hs : RangesDisjoint s) :
    RangesDisjoint { s with limits := l, events := e } := by
  obtain ⟨_, hglobal, hrest⟩ := hs
  refine ⟨⟨hl, hu⟩, hglobal, fun k hk => ⟨fun hek => ?_, (hrest k hk).2⟩⟩
  obtain ⟨h1, _, h3⟩ := (hrest k hk).1 hek
  refine ⟨h1, ?_, h3⟩
  unfold rangeBeyond at hr
  rw [List.any_eq_false] at hr
  have hkr := hr k (List.mem_finRange k)
  simp only [Bool.and_eq_true, bne_iff_ne, decide_eq_true_eq, not_and, not_lt, gt_iff_lt, RangeRecord.stop] at hkr
  exact hkr ⟨hk, hek⟩

/-- A disabled range leaves the law of the Range Table (R32). -/
theorem rangesDisjoint_disabled {k : RangeIx} {s : State} (hk : k ≠ 0) (hs : RangesDisjoint s) :
    RangesDisjoint (putRange k RangeRecord.disabled s) := by
  obtain ⟨hceiling, hglobal, hrest⟩ := hs
  have hzero : (s.ranges.set k RangeRecord.disabled)[(0 : RangeIx)] = s.ranges[(0 : RangeIx)] := set_get_ne _ _ hk
  refine ⟨hceiling, ?_, fun j hj => ?_⟩
  · rw [putRange_ranges]
    exact hzero ▸ hglobal
  · simp only [putRange_ranges, putRange_limits]
    by_cases hjk : k = j
    · subst hjk
      rw [set_get_self]
      exact ⟨nofun, fun _ => rfl⟩
    · obtain ⟨hon, hoff⟩ := hrest j hj
      rw [set_get_ne _ _ hjk]
      refine ⟨fun hej => ?_, hoff⟩
      obtain ⟨h1, h2, h3⟩ := hon hej
      refine ⟨h1, h2, fun i hi hij => ?_⟩
      rw [set_get]
      split_ifs
      · exact nofun
      · exact h3 i hi hij

/-- A little-endian number of `n` bytes lies below 256^n. -/
theorem field_lt (p : Bytes) (off len : Nat) : field p off len < 256 ^ len := by
  have h := leNat_lt (slice p off len)
  have hl : (slice p off len).length ≤ len := by simp [slice]
  exact h.trans_le (Nat.pow_le_pow_right (by decide) hl)

theorem limitsParam_stored (p : Bytes) : (limitsParam p).idle < 65536 ∧ (limitsParam p).drain < 65536 := by
  have h1 := field_lt p 11 2
  have h2 := field_lt p 13 2
  unfold limitsParam
  dsimp only
  refine ⟨h1, ?_⟩
  split_ifs
  · decide
  · exact h2

/-! ### The Range Table after a reset, and the plain laws after a reset -/

theorem rangesDisjoint_reset : RangesDisjoint State.reset := by decide +kernel

/-- A part with its tables as a reset leaves them, its ports in step and its timers stopped keeps the plain laws. -/
theorem keepsPlain_reset {s t : State} (hr : t.ranges = resetRanges) (hl : t.limits = Limits.reset)
    (he : AttentionTells t) (hq : QueuesBounded t) (hf : FlowControl s → FlowControl t)
    (hd : ∀ x, t.deadlineOf x = none) : KeepsPlain s t where
  attention := fun _ => he
  ranges := fun _ => by
    have h := rangesDisjoint_reset
    rwa [RangesDisjoint, hr, hl]
  queues := fun _ => hq
  flow := hf
  timers := fun _ => ⟨by rw [hl]; decide, fun x d hx => by rw [hd x] at hx; cases hx⟩

theorem free_deadlineOf {s : State} (ha : s.autoLock = none) (hd : s.du = none)
    (hc : s.contexts = Vector.replicate 64 Context.free) : ∀ x, s.deadlineOf x = none := by
  rw [forall_timer]
  refine ⟨ha, by simp [State.deadlineOf, hd], fun t => ?_⟩
  simp [State.deadlineOf, hc, Context.free]

theorem attention_reset (b : Bool) (c : List Instr) :
    AttentionTells { State.reset with inReset := b, pending := c } := attention_evaluate { flags := 1, mask := BitVec.allOnes 15, attention := true } State.reset

theorem resetEngineBody_plain (p : Bytes) (s : State) : KeepsPlain s (resetEngineBody p s) := by
  have hdrq : (firstUnexecuted s.drq).toList.length ≤ 8 := by cases firstUnexecuted s.drq <;> simp
  have hx : KeepsPlain s
      { State.reset with
        time := s.time, front := s.front.engineReset, media := s.media.engineReset,
        drq := (firstUnexecuted s.drq).toList, events := s.events.engineReset, pending := s.pending } :=
    keepsPlain_reset rfl rfl (attention_evaluate _ State.reset)
      ⟨Nat.zero_le _, Nat.zero_le _, hdrq, Nat.zero_le _, Nat.zero_le _⟩
      (fun ⟨hf, hm⟩ => ⟨flowAgrees_engineReset hf, flowAgrees_engineReset hm⟩) (free_deadlineOf rfl rfl rfl)
  have ha := (answer_calm .ok [] { State.reset with
        time := s.time, front := s.front.engineReset, media := s.media.engineReset,
        drq := (firstUnexecuted s.drq).toList, events := s.events.engineReset, pending := s.pending }).brisk.plain
  exact ⟨ha.attention ∘ hx.attention, ha.ranges ∘ hx.ranges, ha.queues ∘ hx.queues, ha.flow ∘ hx.flow,
    ha.timers ∘ hx.timers⟩

/-! ### Turns -/

theorem reportLeaves_brisk (f : Frame) (s : State) : Brisk s (reportLeaves f s) := by
  unfold reportLeaves
  split_ifs
  · exact .putContext fun h => nomatch (show ContextState.free = .active from h)
  · exact .refl s
  · exact .queued fun ⟨h1, h2, h3, h4⟩ => ⟨h1, h2, (List.tail_suffix _).length_le.trans h3, h4⟩

theorem reportSent_brisk {s : State} (h : s.front.sending = some .rpq) : Brisk s (frontSent s) := by
  have hsent : Brisk s { s with front := s.front.sent s.rpq.head?, rpq := s.rpq.tail } :=
    { Brisk.refl s with front := fun hf => (flowAgrees_sent fun y => by rw [h]; exact nofun).trans hf }
  unfold frontSent
  rw [h]
  dsimp only
  split
  · exact hsent.trans (reportLeaves_brisk ..)
  · exact hsent

/-- The Directive Unit takes a task whose drain timer, if it has one, is set afresh. -/
theorem Brisk.unit {s : State} {d : Option Executing}
    (h : LimitsStored s → ∀ e ∈ State.deadlineOf { s with du := d } .drain, ∃ n < 2 ^ 63, e = timeAfter s.time n) :
    Brisk s { s with du := d } := by
  refine { Brisk.refl s with timers := fun hl x e he => ?_ }
  cases x with
  | autoLock => exact Or.inl he
  | drain => exact Or.inr (h hl e he)
  | idle t => exact Or.inl he

theorem putSlot_brisk (k : SlotIx) (r : SlotRecord) (s : State) : Brisk s (putSlot k r s) := { Brisk.refl s with }

theorem drainBegun_brisk {k : SlotIx} {goal : DrainGoal} {timer : Option Time} {s : State}
    (ht : timer = none ∨ timer = some (timeAfter s.time (1000 * s.limits.drain))) : Brisk s (drainBegun k goal timer s) := by
  refine (putSlot_brisk ..).trans (Brisk.unit fun hl e he => ?_)
  have hdrain : s.limits.drain < 65536 := hl.2.1
  rcases ht with rfl | rfl <;> cases he
  exact ⟨_, by omega, rfl⟩


theorem Turn.plain {s t : State} (h : Turn s t) : KeepsPlain s t := by
  cases h with
  | port h => exact h.plain
  | opens q => exact (takeOpen_brisk q s).plain
  | ends => exact (endTransfer_calm ..).brisk.plain
  | bypasses q r _ _ _ hr => exact (takeBypass_brisk q r hr).plain
  | starts => exact (startJob_brisk ..).plain
  | completes l j => exact (completeJob_brisk l j s).plain
  | handsOff l j f q _ h => exact (enterOutput_brisk l j f (handOffLane_some h).2.1).plain
  | directive f _ hl =>
    exact Brisk.plain (.queued fun ⟨h1, h2, _, h4⟩ => ⟨h1, h2, by simpa using hl, h4⟩)
  | reportSent _ hs => exact (reportSent_brisk hs).plain
  | frontLost => exact (frontLoss_brisk s).plain
  | mediaLost => exact (mediaLoss_brisk s).plain
  | answers r data => exact (answer_calm r data s).brisk.plain
  | defines k slot p _ h => exact Brisk.plain { Brisk.refl s with ranges := rangesDisjoint_defined rfl h }
  | disables k _ hk => exact Brisk.plain { Brisk.refl s with ranges := rangesDisjoint_disabled hk }
  | locks rt _ h => exact Brisk.plain { Brisk.refl s with ranges := rangesDisjoint_locks h }
  | limits p m _ hc hr =>
    refine ⟨fun _ => attention_evaluate _ s, rangesDisjoint_limits hc.1 hc.2.1 hr, id, id, fun ht => ?_⟩
    exact ⟨⟨(limitsParam_stored p).1, (limitsParam_stored p).2, hc.2.2⟩, ht.2⟩
  | resets p => exact resetEngineBody_plain p s
  | powers b =>
    exact keepsPlain_reset rfl rfl (attention_reset b _) ⟨by simp [State.reset], by simp [State.reset]⟩ (fun _ => ⟨rfl, rfl⟩)
      (free_deadlineOf rfl rfl rfl)
  | fills k task _ hb hs ht =>
    refine ((putSlot_brisk ..).trans (Brisk.unit fun _ e he => ?_)).plain
    cases task <;> first | exact absurd ht id | cases he
  | fillFails k r => exact (failFilling_calm k r s).brisk.plain
  | fillEnds k dk tk g data =>
    exact ((show Calm s (readySlot k dk tk g s) from { Calm.refl s with }).trans (answer_calm ..)).brisk.plain
  | wraps => exact Brisk.plain (.unit fun _ e he => by cases he)
  | drains k goal timer _ hb hs ht =>
    split_ifs
    · exact ((drainBegun_brisk ht).trans (completeDrain_calm _ _ (Option.some_ne_none _)).brisk).plain
    · exact (drainBegun_brisk ht).plain
  | timerStops => exact (stopDrainTimer_brisk s).plain

/-- Settles O5: ATTENTION is evaluated with every change of the flags and the mask. -/
theorem attentionFollowsTheFlags : Obligations.AttentionFollowsTheFlags :=
  stepKeeps_of_turn fun _ _ h => h.plain.attention

/-- Settles O6: only DEFINE RANGE, DISABLE RANGE and SET LIMITS change extents or the ceiling, each after its checks. -/
theorem rangesStayDisjoint : Obligations.RangesStayDisjoint := stepKeeps_of_turn fun _ _ h => h.plain.ranges

/-- Settles O7: a frame enters a queue only where the queue has a place for it. -/
theorem queuesStayBounded : Obligations.QueuesStayBounded := stepKeeps_of_turn fun _ _ h => h.plain.queues

/-- Settles O11: the mark test, the beginning and the end of a flow frame, a link loss and an engine reset each keep the
flow control of a port in step. -/
theorem flowControlStaysInStep : Obligations.FlowControlStaysInStep := stepKeeps_of_turn fun _ _ h => h.plain.flow

/-- Every step keeps the timers in time (R157). -/
theorem stepKeeps_timersInTime : StepKeeps TimersInTime := stepKeeps_of_turn fun _ _ h => h.plain.timers

end Sys2Proof.Machine
end

section
/-! PROOFS. The two transmitters: what they begin on (R96, R97), and that none idles while it may send. -/

namespace Sys2Proof.Machine

/-- A front port that has chosen is busy, has nothing it may send, or is DOWN (R96). -/
theorem frontTransmit_busy (s : State) (hl : (frontTransmit s).front.link = .up)
    (hs : (frontTransmit s).front.sending = none) :
    (frontTransmit s).front.pendingFlow = none ∧
      ((frontTransmit s).front.peerHold = false → (frontTransmit s).rpq = [] ∧ (frontTransmit s).fsq = []) := by
  unfold frontTransmit at hl hs ⊢
  split_ifs at hl hs ⊢ with h
  · split at hs
    · next x hx => cases x <;> exact nomatch hs
    · next hx =>
      unfold frontChoice at hx
      split at hx
      · cases hx
      · next hp =>
        refine ⟨hp, fun hpeer => ?_⟩
        rw [if_neg (by simp [hpeer])] at hx
        split at hx <;> simp_all
  · exact absurd ⟨hl, hs⟩ h

/-- A media port that has chosen is busy, has nothing it may send, or is DOWN (R97). -/
theorem mediaTransmit_busy (s : State) (hl : (mediaTransmit s).media.link = .up)
    (hs : (mediaTransmit s).media.sending = none) :
    (mediaTransmit s).media.pendingFlow = none ∧ ((mediaTransmit s).media.peerHold = false → (mediaTransmit s).moq = []) := by
  unfold mediaTransmit at hl hs ⊢
  split_ifs at hl hs ⊢ with h
  · split at hs
    · next x hx => cases x <;> exact nomatch hs
    · next hx =>
      unfold mediaChoice at hx
      split at hx
      · cases hx
      · next hp =>
        refine ⟨hp, fun hpeer => ?_⟩
        split_ifs at hx with hq
        exact hq.resolve_left (by simp [hpeer])
  · exact absurd ⟨hl, hs⟩ h

/-- No transmitter idles once both have chosen, whatever the state (R96, R97). -/
theorem transmit_busy (s : State) : TransmittersBusy (transmit s) := by
  have hfront : (transmit s).front = (frontTransmit s).front := by rw [transmit_frame]
  have hr : (frontTransmit s).rpq = s.rpq := by rw [frontTransmit_frame]
  have hf : (frontTransmit s).fsq = s.fsq := by rw [frontTransmit_frame]
  refine ⟨?_, mediaTransmit_busy (frontTransmit s)⟩
  rw [hfront, transmit_rpq, transmit_fsq, ← hr, ← hf]
  exact frontTransmit_busy s

theorem settle_busy (s : State) : TransmittersBusy (settle s) := transmit_busy (heads s)

theorem serveHeads_busy {s : State} (h : TransmittersBusy s) : TransmittersBusy (serveHeads s) := by
  unfold serveHeads settle
  split_ifs
  · exact transmit_busy _
  · exact h

/-- The outcome, if it is a next state, leaves no transmitter idle. -/
abbrev Busies (o : Host.Outcome State Fault Refusal) : Prop := ∀ t, o = .next t → TransmittersBusy t

theorem busies_next {t : State} (h : TransmittersBusy t) : Busies (.next t) := by
  rintro _ ⟨⟩
  exact h

theorem busies_atEvent {f : State → State} {s : State} (hs : TransmittersBusy s)
    (h : ∀ s, TransmittersBusy s → TransmittersBusy (f s)) : Busies (atEvent f s) := by
  refine busies_next ?_
  split_ifs
  · exact hs
  · exact h _ (serveHeads_busy hs)

theorem busies_laneJobStart {s : State} (hs : TransmittersBusy s) : Busies (execLaneJobStart s) := by
  unfold execLaneJobStart grantLane
  split_ifs
  · exact busies_next hs
  · split
    · split
      · exact busies_next (transmit_busy _)
      · exact fun _ h => by cases h
    · exact busies_next (serveHeads_busy hs)

/-- An event that does nothing, or ends with the choice of the transmitters. -/
theorem busies_ite {c : Prop} [Decidable c] {s x : State} (hs : TransmittersBusy s) :
    Busies (.next (if c then s else transmit x)) := by
  refine busies_next ?_
  split_ifs
  · exact hs
  · exact transmit_busy x

theorem autoLockDue_busy {s : State} (hs : TransmittersBusy s) : TransmittersBusy (autoLockDue s) := by
  unfold autoLockDue
  split
  · split_ifs
    · exact transmit_busy _
    · exact hs
  · exact hs

theorem drainDue_busy {s : State} (hs : TransmittersBusy s) : TransmittersBusy (drainDue s) := by
  unfold drainDue
  split
  · split_ifs
    · exact transmit_busy _
    · exact hs
  · exact hs

theorem idleDue_busy (t : Tag) {s : State} (hs : TransmittersBusy s) : TransmittersBusy (idleDue t s) := by
  unfold idleDue
  split
  · split_ifs
    · exact transmit_busy _
    · exact hs
  · exact hs

theorem tick_busy {s : State} (hs : TransmittersBusy s) : TransmittersBusy (tick s) := by
  cases h : s.inReset with
  | true =>
    unfold tick
    rw [h]
    exact hs
  | false =>
    have hfold (l : List Tag) : ∀ x, TransmittersBusy x → TransmittersBusy (l.foldl (fun s t => idleDue t s) x) := by
      induction l with
      | nil => exact fun _ hx => hx
      | cons a as ih => exact fun _ hx => ih _ (idleDue_busy a hx)
    have hall : TransmittersBusy (expiredAll s) := by
      unfold expiredAll
      exact hfold _ _ (drainDue_busy (autoLockDue_busy (serveHeads_busy hs)))
    rw [tick_eq h]
    generalize expiredAll s = x at hall ⊢
    exact hall

theorem listening_busy {p : PortId} {x y : State} (hx : TransmittersBusy x) :
    TransmittersBusy (if (x.port p).link = .down then x else transmit y) := by
  split_ifs
  · exact hx
  · exact transmit_busy _

theorem busies_frameArrival (p : PortId) (f : Frame) {s : State} (hs : TransmittersBusy s) :
    Busies (execFrameArrival p f s) := by
  refine busies_atEvent hs fun x hx => ?_
  exact listening_busy hx

theorem busies_holdArrival (p : PortId) {s : State} (hs : TransmittersBusy s) : Busies (execHoldArrival p s) := by
  refine busies_atEvent hs fun x hx => ?_
  exact listening_busy hx

theorem busies_goArrival (p : PortId) {s : State} (hs : TransmittersBusy s) : Busies (execGoArrival p s) := by
  refine busies_atEvent hs fun x hx => ?_
  exact listening_busy hx

theorem busies_laneJobCompletion (l : LaneIx) {s : State} (hs : TransmittersBusy s) : Busies (execLaneJobCompletion l s) := by
  refine busies_atEvent hs fun x hx => ?_
  split
  · exact transmit_busy _
  · exact hx

theorem busies_handOff (q : SectorQueue) {s : State} (hs : TransmittersBusy s) : Busies (execHandOff q s) := by
  refine busies_atEvent hs fun x hx => ?_
  split
  · exact transmit_busy _
  · exact hx

theorem busies_bypassOffer {s : State} (hs : TransmittersBusy s) : Busies (execBypassOffer s) := by
  refine busies_atEvent hs fun x hx => ?_
  split
  · exact settle_busy _
  · exact hx

theorem busies_idleDeadlineExpiry (t : Tag) {s : State} (hs : TransmittersBusy s) : Busies (execIdleDeadlineExpiry t s) := by
  refine busies_atEvent hs fun x hx => ?_
  split
  · split_ifs
    · exact transmit_busy _
    · exact hx
  · exact hx

theorem busies_drainTimerExpiry {s : State} (hs : TransmittersBusy s) : Busies (execDrainTimerExpiry s) := by
  refine busies_atEvent hs fun x hx => ?_
  split
  · split_ifs
    · exact transmit_busy _
    · exact hx
  · exact hx

theorem busies_autoLockExpiry {s : State} (hs : TransmittersBusy s) : Busies (execAutoLockExpiry s) := by
  refine busies_atEvent hs fun x hx => ?_
  split
  · split_ifs
    · exact transmit_busy _
    · exact hx
  · exact hx

theorem exec_busies (c : Instr) {s : State} (hs : TransmittersBusy s) : Busies (exec c s) := by
  cases c with
  | powerOn => exact busies_next ⟨nofun, nofun⟩
  | powerOnResetAsserted => exact busies_next ⟨nofun, nofun⟩
  | frontLinkDown => exact busies_ite hs
  | frontLinkUp => exact busies_ite hs
  | mediaLinkDown => exact busies_ite hs
  | mediaLinkUp => exact busies_ite hs
  | frameArrival p f => exact busies_frameArrival p f hs
  | holdArrival p => exact busies_holdArrival p hs
  | goArrival p => exact busies_goArrival p hs
  | laneJobStart => exact busies_laneJobStart hs
  | laneJobCompletion l => exact busies_laneJobCompletion l hs
  | handOff q => exact busies_handOff q hs
  | bypassOffer => exact busies_bypassOffer hs
  | idleDeadlineExpiry t => exact busies_idleDeadlineExpiry t hs
  | drainTimerExpiry => exact busies_drainTimerExpiry hs
  | autoLockExpiry => exact busies_autoLockExpiry hs
  | _ => exact busies_atEvent hs fun _ _ => transmit_busy _

/-- Settles O13: the transmitters choose at the end of every event, and an event that does nothing leaves them as they
were. -/
theorem transmittersStayBusy : Obligations.TransmittersStayBusy := by
  intro s t hs hstep
  unfold step at hstep
  split at hstep
  · next c rest _ => exact exec_busies c (show TransmittersBusy { s with pending := rest } from hs) t hstep
  · cases hstep
    exact tick_busy hs

/-- Settles O25: the branches of the front arbiter and of the media transmitter. -/
theorem transmittersChoose : Obligations.TransmittersChoose := by
  intro s
  refine ⟨rfl, ?_, ?_, ?_, ?_⟩
  · intro h
    rw [frontTransmit, if_neg]
    rintro ⟨hl, hs⟩
    rcases h with h | h
    · exact nomatch h.symm.trans hl
    · exact h hs
  · intro hl hs
    rw [frontTransmit, if_pos ⟨hl, hs⟩]
    refine ⟨fun f hf => ?_, fun hp hpeer => ?_, fun hp hpeer => ⟨fun hr hf => ?_, fun hr hf => ?_, fun hf hr => ?_⟩⟩
    · simp [frontChoice, hf, beginSending, turnAfter]
    · simp [frontChoice, hp, hpeer]
    · simp [frontChoice, hp, hpeer, hr, hf]
    · obtain ⟨a, as, ha⟩ := List.exists_cons_of_ne_nil hr
      have hchoice : frontChoice s = some .rpq := by
        cases hq : s.fsq with
        | nil => simp [frontChoice, hp, hpeer, ha, hq]
        | cons b bs => simp [frontChoice, hp, hpeer, ha, hq, hf.resolve_left (by simp [hq])]
      simp only [hchoice, beginSending, turnAfter]
    · obtain ⟨a, as, ha⟩ := List.exists_cons_of_ne_nil hf
      have hchoice : frontChoice s = some .fsq := by
        cases hq : s.rpq with
        | nil => simp [frontChoice, hp, hpeer, ha, hq]
        | cons b bs => simp [frontChoice, hp, hpeer, ha, hq, hr.resolve_left (by simp [hq])]
      simp only [hchoice, beginSending, turnAfter]
  · intro h
    rw [mediaTransmit, if_neg]
    rintro ⟨hl, hs⟩
    rcases h with h | h
    · exact nomatch h.symm.trans hl
    · exact h hs
  · intro hl hs
    rw [mediaTransmit, if_pos ⟨hl, hs⟩]
    refine ⟨fun f hf => ?_, fun hp h => ?_, fun hp hpeer hm => ?_⟩
    · simp [mediaChoice, hf, beginSending]
    · simp [mediaChoice, hp, h]
    · simp [mediaChoice, hp, hpeer, hm, beginSending]

end Sys2Proof.Machine
end

section
/-! PROOFS. The Report Queue holds what it owes (R81, R91): one COMPLETION for each context in REPORTING and one RESPONSE for each
executed directive. -/

namespace Sys2Proof.Machine

/-! ### Operations that leave the tables alone -/

/-- The tables, the lanes, the Directive Unit, the limits and what is owed in reports are the same in two states. -/
structure SameCore (s t : State) : Prop where
  contexts : t.contexts = s.contexts
  slots : t.slots = s.slots
  lanes : t.lanes = s.lanes
  moqHold : t.moqHold = s.moqHold
  fsqHold : t.fsqHold = s.fsqHold
  du : t.du = s.du
  drq : t.drq = s.drq
  rpq : t.rpq = s.rpq
  ranges : t.ranges = s.ranges
  limits : t.limits = s.limits

theorem SameCore.refl (s : State) : SameCore s s := ⟨rfl, rfl, rfl, rfl, rfl, rfl, rfl, rfl, rfl, rfl⟩

theorem SameCore.trans {s t u : State} (a : SameCore s t) (b : SameCore t u) : SameCore s u :=
  ⟨b.1.trans a.1, b.2.trans a.2, b.3.trans a.3, b.4.trans a.4, b.5.trans a.5, b.6.trans a.6, b.7.trans a.7,
    b.8.trans a.8, b.9.trans a.9, b.10.trans a.10⟩

theorem putPort_core (p : PortId) (x : Port) (s : State) : SameCore s (putPort p x s) := by
  cases p <;> exact { SameCore.refl s with }

theorem testMarks_core (p : PortId) (s : State) : SameCore s (testMarks p s) := putPort_core ..

theorem putIntake_core (p : PortId) (q : List Queued) (s : State) : SameCore s (putIntake p q s) := by
  refine SameCore.trans ?_ (testMarks_core p _)
  cases p <;> exact { SameCore.refl s with }

theorem popIntake_core (p : PortId) (s : State) : SameCore s (popIntake p s) := by
  cases p
  · exact putIntake_core ..
  · have hv : SameCore s { s with verdict := none } := { SameCore.refl s with }
    exact hv.trans (putIntake_core ..)

theorem raise_core (f : Fin 15) (s : State) : SameCore s (raise f s) := { SameCore.refl s with }

theorem transmit_core (s : State) : SameCore s (transmit s) where
  contexts := transmit_contexts s
  slots := transmit_slots s
  lanes := transmit_lanes s
  moqHold := transmit_moqHold s
  fsqHold := transmit_fsqHold s
  du := transmit_du s
  drq := transmit_drq s
  rpq := transmit_rpq s
  ranges := transmit_ranges s
  limits := transmit_limits s

theorem mediaSent_core (s : State) : SameCore s (mediaSent s) := by
  unfold mediaSent
  split <;> exact { SameCore.refl s with }

theorem flowSent_core (p : PortId) (s : State) : SameCore s (flowSent p s) := by
  unfold flowSent
  split
  · exact (putPort_core ..).trans (testMarks_core ..)
  · exact .refl s

theorem PortTurn.core {s t : State} (h : PortTurn s t) : SameCore s t := by
  cases h with
  | transmit => exact transmit_core s
  | pop p => exact popIntake_core p s
  | arrives p => exact putIntake_core ..
  | hears p => exact putPort_core ..
  | mediaSent => exact mediaSent_core s
  | flowSent p => exact flowSent_core p s
  | marks p => exact testMarks_core p s
  | _ => exact { SameCore.refl s with }

/-! ### What leaving a drain set can do -/

theorem leaveDrain_cases (t : Tag) (s : State) :
    leaveDrain t s = s ∨ ∃ k goal timer silent r,
      s.du = some ⟨.draining k goal timer, silent⟩ ∧
      (leaveDrain t s = putSlot k r s ∨ leaveDrain t s = completeDrain k goal (putSlot k r s)) := by
  unfold leaveDrain
  split
  · next k goal timer silent hdu =>
    dsimp only
    split_ifs
    · exact Or.inr ⟨k, goal, timer, silent, _, hdu, Or.inr rfl⟩
    · exact Or.inr ⟨k, goal, timer, silent, _, hdu, Or.inl rfl⟩
    · exact Or.inl rfl
  · exact Or.inl rfl

/-! ### What is owed -/

/-- The executed entries of the Directive Queue stand before the others, and an executing directive has its entry. -/
def OwedIds (ids : List Byte) (drq : List DrqEntry) (busy : Bool) : Prop :=
  ∃ done rest, drq = done ++ rest ∧ (∀ d ∈ done, d.executed = true) ∧ (∀ d ∈ rest, d.executed = false) ∧
    ids = done.map (fun e => e.frame.header.tag) ∧ (busy = true → rest ≠ [])

/-- The Report Queue holds what it owes, but for the contexts of a list, whose COMPLETION has been taken away (R98). -/
def Owed (gone : List Tag) (s : State) : Prop :=
  (∀ f ∈ s.rpq, f.header.kind = Kind.response ∨ (f.header.kind = Kind.completion ∧ f.header.tag.toNat < 64)) ∧
  (∀ t : Tag, completionsOf t s.rpq = if s.contexts[t].state = .reporting ∧ t ∉ gone then 1 else 0) ∧
  OwedIds (responseIds s.rpq) s.drq s.du.isSome

theorem filter_executed {done rest : List DrqEntry} (hd : ∀ d ∈ done, d.executed = true)
    (hr : ∀ d ∈ rest, d.executed = false) : (done ++ rest).filter (fun e => e.executed) = done := by
  rw [List.filter_append, List.filter_eq_self.mpr hd, List.filter_eq_nil_iff.mpr (by simpa using hr), List.append_nil]

theorem dropWhile_executed {done rest : List DrqEntry} (hd : ∀ d ∈ done, d.executed = true)
    (hr : ∀ d ∈ rest, d.executed = false) : (done ++ rest).dropWhile (fun e => e.executed) = rest := by
  rw [List.dropWhile_append_of_pos hd]
  cases rest with
  | nil => rfl
  | cons d ds => rw [List.dropWhile_cons_of_neg (by simp [hr d List.mem_cons_self])]

theorem firstUnexecuted_none {done : List DrqEntry} (hd : ∀ d ∈ done, d.executed = true) : firstUnexecuted done = none := by
  simpa [firstUnexecuted, List.find?_eq_none] using hd

theorem firstUnexecuted_isSome {done rest : List DrqEntry} (hd : ∀ d ∈ done, d.executed = true)
    (hr : ∀ d ∈ rest, d.executed = false) : (firstUnexecuted (done ++ rest)).isSome = true ↔ rest ≠ [] := by
  cases rest with
  | nil => simp [firstUnexecuted_none hd]
  | cons e es => simp [firstUnexecuted_split hd (hr e List.mem_cons_self)]

theorem owedIds_iff (ids : List Byte) (drq : List DrqEntry) (busy : Bool) :
    OwedIds ids drq busy ↔
      ids = (drq.filter (fun e => e.executed)).map (fun e => e.frame.header.tag) ∧
      (∀ e ∈ drq.dropWhile (fun e => e.executed), e.executed = false) ∧
      (busy = true → (firstUnexecuted drq).isSome = true) := by
  constructor
  · rintro ⟨done, rest, rfl, hd, hr, hi, hb⟩
    exact ⟨by rw [filter_executed hd hr, hi], by rwa [dropWhile_executed hd hr],
      fun h => (firstUnexecuted_isSome hd hr).mpr (hb h)⟩
  · rintro ⟨hi, hr, hb⟩
    have hd : ∀ d ∈ drq.takeWhile (fun e => e.executed), d.executed = true := fun d h => List.mem_takeWhile_imp h
    have hsplit : drq.takeWhile (fun e => e.executed) ++ drq.dropWhile (fun e => e.executed) = drq :=
      List.takeWhile_append_dropWhile
    refine ⟨_, _, hsplit.symm, hd, hr, ?_, fun h => ?_⟩
    · rw [← filter_executed hd hr, hsplit, hi]
    · exact (firstUnexecuted_isSome hd hr).mp (hsplit.symm ▸ hb h)

theorem reportsOwed_iff (s : State) : ReportsOwed s ↔ Owed [] s := by
  unfold Owed
  rw [owedIds_iff]
  simp only [List.not_mem_nil, not_false_eq_true, and_true]

/-- What is owed depends on the reports, the entries, the unit and which contexts report. -/
theorem Owed.congr {gone : List Tag} {s t : State} (h : Owed gone s) (hr : t.rpq = s.rpq) (hd : t.drq = s.drq)
    (hdu : t.du.isSome = true → s.du.isSome = true)
    (hc : ∀ i : Tag, t.contexts[i].state = .reporting ↔ s.contexts[i].state = .reporting) : Owed gone t := by
  obtain ⟨hk, hn, done, rest, hq, hdone, hrest, hi, hb⟩ := h
  refine ⟨hr ▸ hk, fun i => ?_, done, rest, hd.trans hq, hdone, hrest, by rw [hr, hi], fun x => hb (hdu x)⟩
  rw [hr, hn i]
  simp only [hc]

theorem Owed.core {gone : List Tag} {s t : State} (h : Owed gone s) (c : SameCore s t) : Owed gone t :=
  h.congr c.rpq c.drq (by rw [c.du]; exact id) (fun i => by rw [c.contexts])

/-- A context changes and reports neither before nor after. -/
theorem Owed.putContext {gone : List Tag} {s : State} (h : Owed gone s) {t : Tag} (c : Context)
    (hs : s.contexts[t].state ≠ .reporting) (hc : c.state ≠ .reporting) : Owed gone (putContext t c s) := by
  refine h.congr rfl rfl id fun i => ?_
  rw [putContext_contexts, set_get]
  split_ifs with hi
  · subst hi
    exact iff_of_false hc hs
  · rfl

theorem completionsOf_append (t : Tag) (a b : List Frame) :
    completionsOf t (a ++ b) = completionsOf t a + completionsOf t b := by
  simp [completionsOf]

theorem responseIds_append (a b : List Frame) : responseIds (a ++ b) = responseIds a ++ responseIds b := by
  simp [responseIds]

theorem completionsOf_response (t : Tag) (f : Frame) (r : Result) (data : Bytes) :
    completionsOf t [responseFrame f r data] = 0 := by
  simp [completionsOf, responseFrame, buildFrame, Kind.response, Kind.completion]

theorem completionsOf_completion (t i : Tag) (c : Context) :
    completionsOf i [completionFrame t c] = if t = i then 1 else 0 := by
  have ht : (t : Nat) % 256 = t := Nat.mod_eq_of_lt (by omega)
  by_cases h : t = i
  · simp [completionsOf, completionFrame, buildFrame, h, Nat.mod_eq_of_lt (show (i : Nat) < 256 by omega)]
  · simp [completionsOf, completionFrame, buildFrame, h, ht, Fin.val_inj]

/-- An answer keeps what is owed: the RESPONSE comes with the executed entry, or the entry goes without one (R91, R98). -/
theorem Owed.answer {gone : List Tag} {s : State} (h : Owed gone s) (r : Result) (data : Bytes) :
    Owed gone (answer r data s) := by
  obtain ⟨hk, hn, done, rest, hq, hd, hr, hi, hb⟩ := h
  cases rest with
  | nil =>
    have hf : firstUnexecuted s.drq = none := by rw [hq, List.append_nil, firstUnexecuted_none hd]
    unfold Machine.answer
    rw [hf]
    exact ⟨hk, hn, done, [], hq, hd, hr, hi, nofun⟩
  | cons e es =>
    have hnext : Next done e es s := ⟨hq, hd, hr e List.mem_cons_self⟩
    have hes : ∀ d ∈ es, d.executed = false := fun d h => hr d (List.mem_cons_of_mem _ h)
    cases hs : silentUnit s with
    | true =>
      rw [answer_silent hnext hs]
      exact ⟨hk, hn, done, es, rfl, hd, hes, hi, nofun⟩
    | false =>
      rw [answer_next hnext hs]
      refine ⟨?_, fun t => ?_, done ++ [{ e with executed := true }], es, by simp [State.answered], ?_, hes, ?_, nofun⟩
      · intro f hf
        rcases List.mem_append.mp hf with hf | hf
        · exact hk f hf
        · rw [List.mem_singleton.mp hf]
          exact Or.inl rfl
      · exact (completionsOf_append ..).trans (by rw [completionsOf_response, hn t]; rfl)
      · simpa [or_imp, forall_and] using hd
      · refine (responseIds_append ..).trans ?_
        rw [hi, List.map_append]
        rfl

/-- A context that did not report enters REPORTING with its COMPLETION (R81). -/
theorem Owed.reported {gone : List Tag} {s : State} (h : Owed gone s) {t : Tag} {c : Context}
    (hs : s.contexts[t].state ≠ .reporting) (hg : t ∉ gone) (hc : c.state = .reporting) :
    Owed gone { Machine.putContext t c s with rpq := s.rpq ++ [completionFrame t c] } := by
  obtain ⟨hk, hn, done, rest, hq, hd, hr, hi, hb⟩ := h
  refine ⟨fun f hf => ?_, fun i => ?_, done, rest, hq, hd, hr, ?_, hb⟩
  · rcases List.mem_append.mp hf with hf | hf
    · exact hk f hf
    · rw [List.mem_singleton.mp hf]
      refine Or.inr ⟨rfl, ?_⟩
      simp only [completionFrame, buildFrame, BitVec.toNat_ofNat]
      omega
  · refine (completionsOf_append ..).trans ?_
    rw [completionsOf_completion, hn i]
    change _ = if ((Machine.putContext t c s).contexts[i].state = .reporting ∧ i ∉ gone) then 1 else 0
    rw [putContext_contexts, set_get]
    by_cases hi : t = i
    · subst hi
      simp [-Fin.getElem_fin, hs, hg, hc]
    · simp [-Fin.getElem_fin, hi]
  · refine (responseIds_append ..).trans ?_
    rw [hi]
    simp [responseIds, completionFrame, buildFrame, Kind.completion, Kind.response]

theorem Owed.emptySlot {gone : List Tag} {s : State} (h : Owed gone s) (k : SlotIx) : Owed gone (emptySlot k s) :=
  h.congr rfl rfl id (fun _ => Iff.rfl)

theorem Owed.completeDrain {gone : List Tag} {s : State} (h : Owed gone s) (hdu : s.du.isSome = true) (k : SlotIx)
    (goal : DrainGoal) : Owed gone (completeDrain k goal s) := by
  unfold Machine.completeDrain
  split
  · exact (h.emptySlot k).answer ..
  · split_ifs
    · exact (h.emptySlot k).answer ..
    · exact h.congr rfl rfl (fun _ => hdu) (fun _ => Iff.rfl)

theorem Owed.leaveDrain {gone : List Tag} {s : State} (h : Owed gone s) (t : Tag) : Owed gone (leaveDrain t s) := by
  rcases leaveDrain_cases t s with he | ⟨k, goal, timer, silent, r, hdu, he | he⟩ <;> rw [he]
  · exact h
  · exact h.congr rfl rfl id (fun _ => Iff.rfl)
  · have hput : Owed gone (putSlot k r s) := h.congr rfl rfl id (fun _ => Iff.rfl)
    exact hput.completeDrain (by simp [hdu]) k goal

theorem Owed.enterReporting {gone : List Tag} {s : State} (h : Owed gone s) {t : Tag}
    (hs : s.contexts[t].state ≠ .reporting) (hg : t ∉ gone) : Owed gone (enterReporting t s) :=
  (h.reported hs hg rfl).leaveDrain t

theorem Owed.freeContext {gone : List Tag} {s : State} (h : Owed gone s) {t : Tag}
    (hs : s.contexts[t].state ≠ .reporting) : Owed gone (freeContext t s) :=
  (h.putContext _ hs (by decide)).leaveDrain t

theorem Owed.leaveEnding {gone : List Tag} {s : State} (h : Owed gone s) {t : Tag} (hg : t ∉ gone) :
    Owed gone (leaveEnding t s) := by
  unfold Machine.leaveEnding
  split_ifs with hc
  · exact h.freeContext (by rw [hc.1]; decide)
  · exact h.enterReporting (by rw [hc.1]; decide) hg
  · exact h

theorem Owed.finishTransfer {gone : List Tag} {s : State} (h : Owed gone s) {t : Tag} (hg : t ∉ gone) :
    Owed gone (finishTransfer t s) := by
  unfold Machine.finishTransfer
  split_ifs with hc
  · have hs : s.contexts[t].state ≠ .reporting := by rw [hc.1]; decide
    exact (h.putContext { s.contexts[t] with ending := some .done } hs hs).enterReporting
      (by simpa [-Fin.getElem_fin] using hs) hg
  · exact h

theorem releaseLane_contexts (l : LaneIx) (j : Job) (s : State) :
    (releaseLane l j s).contexts = s.contexts.set j.tag { s.contexts[j.tag] with jobs := s.contexts[j.tag].jobs - 1 } := rfl

theorem releaseLane_state (l : LaneIx) (j : Job) (s : State) (i : Tag) :
    (releaseLane l j s).contexts[i].state = s.contexts[i].state := by
  rw [releaseLane_contexts, set_get]
  split_ifs with h
  · rw [← h]
  · rfl

theorem Owed.releaseLane {gone : List Tag} {s : State} (h : Owed gone s) (l : LaneIx) (j : Job) :
    Owed gone (releaseLane l j s) :=
  h.congr rfl rfl id (fun i => by rw [releaseLane_state])

theorem Owed.discardOutput {gone : List Tag} {s : State} (h : Owed gone s) (l : LaneIx) {j : Job} (hg : j.tag ∉ gone) :
    Owed gone (discardOutput l j s) :=
  (h.releaseLane l j).leaveEnding hg

theorem Owed.discardHeldRead {gone : List Tag} {s : State} (h : Owed gone s) {t : Tag} (l : LaneIx) (hg : t ∉ gone) :
    Owed gone (discardHeldRead t l s) := by
  unfold Machine.discardHeldRead
  split
  · split_ifs with hj
    · exact h.discardOutput l (hj ▸ hg)
    · exact h
  · exact h

theorem Owed.foldl {gone : List Tag} {α : Type} {f : State → α → State} (hf : ∀ s a, Owed gone s → Owed gone (f s a))
    (l : List α) {s : State} (h : Owed gone s) : Owed gone (l.foldl f s) := by
  induction l generalizing s with
  | nil => exact h
  | cons a as ih => exact ih (hf s a h)

theorem discardFrontHead_core (t : Tag) (s : State) : SameCore s (discardFrontHead t s) := by
  unfold discardFrontHead
  split_ifs <;> [exact popIntake_core .front s; exact .refl s]

theorem discardMediaHead_core (t : Tag) (s : State) : SameCore s (discardMediaHead t s) := by
  unfold discardMediaHead
  split_ifs <;> [exact popIntake_core .media s; exact .refl s]

theorem Owed.enterEnding {gone : List Tag} {s : State} (h : Owed gone s) {t : Tag} (c : Context)
    (hs : s.contexts[t].state ≠ .reporting) (hg : t ∉ gone) : Owed gone (enterEnding t c s) := by
  unfold Machine.enterEnding
  refine Owed.leaveEnding (Owed.foldl (fun s l h => h.discardHeldRead l hg) _ ?_) hg
  refine Owed.core (Owed.core ?_ (discardFrontHead_core t _)) (discardMediaHead_core t _)
  exact h.putContext _ hs (by simp)

theorem not_reporting_of_running {c : ContextState} (h : c.running = true) : c ≠ .reporting := by
  rintro rfl
  cases h

theorem Owed.endTransfer {gone : List Tag} {s : State} (h : Owed gone s) {t : Tag} (e : Ending) (fail : Option Nat)
    (hg : t ∉ gone) : Owed gone (endTransfer t e fail s) := by
  unfold Machine.endTransfer
  split_ifs with hr
  · exact h.enterEnding _ (not_reporting_of_running hr) hg
  · exact h

theorem Owed.discardHeldWrite {s : State} (h : Owed [] s) (l : LaneIx) : Owed [] (discardHeldWrite l s) := by
  unfold Machine.discardHeldWrite
  split
  · exact h.discardOutput l List.not_mem_nil
  · exact h

/-! ### Sectors -/

theorem take_state (d : Option Time) (i n : Nat) (c : Context) :
    (c.take d i n).state = .flushing ∨ (c.take d i n).state = c.state := by
  unfold Context.take
  dsimp only
  split_ifs
  · exact Or.inl rfl
  · exact Or.inr rfl

theorem belongsToRead_active {q : Queued} {s : State} (h : belongsToRead q s = true) :
    s.contexts[frameTag q.frame].state = .active := by
  simp only [belongsToRead, Bool.and_eq_true, beq_iff_eq] at h
  exact h.1.1.1

theorem frontCandidate_active {q : Queued} {s : State} (h : frontCandidate q s = true) :
    s.contexts[frameTag q.frame].state = .active := by
  simp only [frontCandidate, Bool.and_eq_true, beq_iff_eq] at h
  exact h.1.1.2

theorem waits_active {side : PortId} {q : Queued} {s : State} (h : Waits side q s) :
    s.contexts[frameTag q.frame].state = .active := by
  rcases h with ⟨_, _, h⟩ | ⟨_, _, _, h⟩
  · exact frontCandidate_active h
  · exact belongsToRead_active h

/-- The taking of a sector keeps what is owed. -/
theorem Owed.takes {gone : List Tag} {s : State} (h : Owed gone s) {t : Tag} {c : Context} (hs : s.contexts[t].state = .active)
    (hc : c.state = .active) (d : Option Time) (i n : Nat) : Owed gone (Machine.putContext t (c.take d i n) s) :=
  h.putContext _ (by rw [hs]; decide) (by rcases take_state d i n c with e | e <;> rw [e] <;> [decide; (rw [hc]; decide)])

theorem deliver_owing (t : Tag) (r : ReadStatus) (f : Frame) (s : State) :
    (deliver t r f s).rpq = s.rpq ∧ (deliver t r f s).drq = s.drq ∧ (deliver t r f s).du = s.du ∧
      ∀ i : Tag, (deliver t r f s).contexts[i].state = s.contexts[i].state := by
  have hctx (i : Tag) (n : Nat) (x : ReadCounts) :
      (s.contexts.set t { s.contexts[t] with finished := n, counts := x })[i].state = s.contexts[i].state := by
    rw [set_get]
    split_ifs with h <;> [rw [h]; rfl]
  cases r <;> exact ⟨rfl, rfl, rfl, fun i => hctx i _ _⟩

theorem emit_state (t : Tag) (f : Frame) (s : State) (i : Tag) : (emit t f s).contexts[i].state = s.contexts[i].state := by
  unfold emit
  simp only [putContext_contexts, set_get]
  split_ifs with h <;> [rw [h]; rfl]

theorem Owed.deliver {gone : List Tag} {s : State} (h : Owed gone s) (t : Tag) (r : ReadStatus) (f : Frame) :
    Owed gone (deliver t r f s) := by
  obtain ⟨hr, hd, hdu, hc⟩ := deliver_owing t r f s
  exact h.congr hr hd (by rw [hdu]; exact id) (fun i => by rw [hc])

theorem Owed.takeBypass {s : State} (h : Owed [] s) {q : Queued} (hb : belongsToRead q s = true) (r : ReadStatus) :
    Owed [] (takeBypass q r s) := by
  have ha : (popIntake .media s).contexts[frameTag q.frame].state = .active := by
    rw [popIntake_contexts]
    exact belongsToRead_active hb
  exact (((h.core (popIntake_core .media s)).takes ha ha ..).deliver ..).finishTransfer List.not_mem_nil

theorem Owed.startJob {s : State} (h : Owed [] s) {side : PortId} {q : Queued} (hw : Waits side q s) (l : LaneIx)
    (k : SlotIx) : Owed [] (startJob l side q k s) := by
  have ha := waits_active hw
  have hcore (x y : State) (h : Owed [] x) (hr : y.rpq = x.rpq) (hd : y.drq = x.drq) (hdu : y.du = x.du)
      (hc : y.contexts = x.contexts) : Owed [] y := h.congr hr hd (by rw [hdu]; exact id) (fun i => by rw [hc])
  unfold Machine.startJob
  refine hcore _ _ (Owed.takes (Owed.core ?_ (popIntake_core side _)) ?_ ha _ _ _) rfl rfl rfl rfl
  · exact hcore _ _ h rfl rfl rfl rfl
  · rw [popIntake_contexts]
    exact ha

theorem Owed.enterOutput {s : State} (h : Owed [] s) (l : LaneIx) (j : Job) (f : Frame) (target : SectorQueue) :
    Owed [] (enterOutput l j f target s) := by
  unfold Machine.enterOutput
  refine Owed.leaveEnding (Owed.finishTransfer ?_ List.not_mem_nil) List.not_mem_nil
  cases target with
  | moq => exact (h.releaseLane l j).congr rfl rfl id (fun i => by rw [emit_state])
  | fsq => exact (h.releaseLane l j).deliver ..

theorem Owed.completeJob {s : State} (h : Owed [] s) (l : LaneIx) (j : Job) : Owed [] (completeJob l j s) := by
  unfold Machine.completeJob offerOutput
  split_ifs
  · exact h.enterOutput ..
  · unfold holdOutput
    cases targetQueue j <;> exact h.congr rfl rfl id (fun _ => Iff.rfl)
  · exact h.discardOutput l List.not_mem_nil

theorem Owed.takeOpen {s : State} (h : Owed [] s) {q : Queued} (hf : s.contexts[frameTag q.frame].state = .free) :
    Owed [] (takeOpen q s) := by
  have hs : s.contexts[frameTag q.frame].state ≠ .reporting := by rw [hf]; decide
  unfold Machine.takeOpen
  dsimp only
  split
  · exact h.putContext _ hs (by simp)
  · have hc : (openedContext q.frame).state ≠ .reporting := by
      unfold openedContext
      simp [Context.free]
    exact (h.putContext { openedContext q.frame with ending := some _ } hs hc).enterReporting
      (by simpa [-Fin.getElem_fin] using hc) List.not_mem_nil

/-! ### Link losses, the end of a transmission, the engine reset -/

theorem Owed.frontLossContext {t : Tag} {gone : List Tag} {s : State} (h : Owed (t :: gone) s) (hg : t ∉ gone) :
    Owed gone (frontLossContext t s) := by
  have hstay (hs : s.contexts[t].state ≠ .reporting) : Owed gone s := by
    obtain ⟨hk, hn, hi⟩ := h
    refine ⟨hk, fun i => (hn i).trans ?_, hi⟩
    by_cases hi : i = t
    · subst hi
      simp [-Fin.getElem_fin, hs]
    · simp [-Fin.getElem_fin, hi]
  unfold Machine.frontLossContext
  dsimp only
  split
  · next hs => exact hstay (by rw [hs]; decide)
  · next hs => exact (hstay (by rw [hs]; decide)).enterEnding _ (by rw [hs]; decide) hg
  · next hs => exact (hstay (by rw [hs]; decide)).enterEnding _ (by rw [hs]; decide) hg
  · next hs =>
    have hne : s.contexts[t].state ≠ .reporting := by rw [hs]; decide
    exact ((hstay hne).putContext { s.contexts[t] with suppressed := true } hne hne).leaveEnding hg
  · next hs =>
    refine Owed.leaveDrain ?_ t
    obtain ⟨hk, hn, hi⟩ := h
    refine ⟨hk, fun i => (hn i).trans ?_, hi⟩
    rw [putContext_contexts, set_get]
    by_cases hi : t = i
    · subst hi
      simp [-Fin.getElem_fin, Context.free]
    · have hi' : i ≠ t := fun e => hi e.symm
      simp [-Fin.getElem_fin, hi, hi']

theorem Owed.frontLossContexts {gone : List Tag} (hd : gone.Nodup) {s : State} (h : Owed gone s) :
    Owed [] (gone.foldl (fun s t => Machine.frontLossContext t s) s) := by
  induction gone generalizing s with
  | nil => exact h
  | cons t gone ih =>
    obtain ⟨hg, hd⟩ := List.nodup_cons.mp hd
    exact ih hd (h.frontLossContext hg)

theorem Owed.frontLoss {s : State} (h : Owed [] s) : Owed [] (frontLoss s) := by
  rw [frontLoss_eq]
  refine Owed.frontLossContexts (List.nodup_finRange 64) ?_
  obtain ⟨-, -, done, rest, hq, hd, hr, -, hb⟩ := h
  refine ⟨fun f hf => (List.not_mem_nil hf).elim, fun t => ?_, [], executingEntries s, rfl, fun d hd => (List.not_mem_nil hd).elim,
    fun d hd => ?_, rfl, fun hdu => ?_⟩
  · simp [completionsOf, frontCut]
  · unfold executingEntries at hd
    split at hd
    · exact (List.not_mem_nil hd).elim
    · rw [Option.mem_toList] at hd
      have := List.find?_some hd
      simpa using this
  · have hbusy : s.du.isSome = true := by simpa [frontCut] using hdu
    have hfirst := (firstUnexecuted_isSome hd hr).mpr (hb hbusy)
    rw [← hq] at hfirst
    unfold executingEntries
    obtain ⟨x, hx⟩ := Option.isSome_iff_exists.mp hbusy
    obtain ⟨e, he⟩ := Option.isSome_iff_exists.mp hfirst
    simp [hx, he]

theorem discardWaitingSector_core (s : State) : SameCore s (discardWaitingSector s) := by
  unfold discardWaitingSector
  split
  · split_ifs <;> [exact popIntake_core ..; exact .refl s]
  · exact .refl s

theorem Owed.mediaEnds {s : State} (h : Owed [] s) : Owed [] (mediaEnds s) := by
  unfold Machine.mediaEnds
  exact Owed.foldl (fun s l h => h.discardHeldWrite l) _
    (Owed.foldl (fun s t h => h.endTransfer _ _ List.not_mem_nil) _ h)

theorem Owed.mediaLoss {s : State} (h : Owed [] s) : Owed [] (mediaLoss s) := by
  have hcut : Owed [] (mediaCut s) := by
    have hlost : Owed [] { s with media := s.media.lost, miq := [], moq := [], verdict := none } :=
      h.congr rfl rfl id fun _ => Iff.rfl
    exact hlost.core (discardWaitingSector_core _)
  have hempty : Owed [] { mediaCut s with fiq := [] } := hcut.congr rfl rfl id fun _ => Iff.rfl
  rw [mediaLoss_eq]
  have hends := hempty.mediaEnds
  generalize Machine.mediaEnds _ = e at hends ⊢
  exact hends.congr rfl rfl id fun _ => Iff.rfl

theorem frameTag_val {f : Frame} (h : f.header.tag.toNat < 64) : (frameTag f).val = f.header.tag.toNat :=
  Nat.mod_eq_of_lt h

theorem completionsOf_cons (t : Tag) (f : Frame) (q : List Frame) :
    completionsOf t (f :: q) =
      (if f.header.kind = Kind.completion ∧ f.header.tag.toNat = t.val then 1 else 0) + completionsOf t q := by
  by_cases h : f.header.kind = Kind.completion ∧ f.header.tag.toNat = t.val
  · simp [completionsOf, h, Nat.add_comm]
  · simp [completionsOf, h]

/-- The report at the head of the Report Queue leaves it: its context is freed, or its entry is (R81, R91). -/
theorem Owed.reportLeaves {s u : State} {f : Frame} {q : List Frame} (h : Owed [] s) (hq : s.rpq = f :: q) (hr : u.rpq = q)
    (hd : u.drq = s.drq) (hdu : u.du = s.du) (hc : u.contexts = s.contexts) : Owed [] (reportLeaves f u) := by
  obtain ⟨hk, hn, done, rest, hdrq, hdone, hrest, hi, hb⟩ := h
  rw [hq] at hk hn hi
  have hkq : ∀ g ∈ q, g.header.kind = Kind.response ∨ (g.header.kind = Kind.completion ∧ g.header.tag.toNat < 64) :=
    fun g hg => hk g (List.mem_cons_of_mem _ hg)
  simp only [List.not_mem_nil, not_false_eq_true, and_true] at hn
  have hb' : u.du.isSome = true → rest ≠ [] := by rw [hdu]; exact hb
  unfold Machine.reportLeaves
  split_ifs with hkind hrep
  · have htag : f.header.tag.toNat < 64 := by
      rcases hk f List.mem_cons_self with h | h
      · rw [hkind] at h
        exact absurd h (by decide)
      · exact h.2
    refine ⟨by rw [putContext_rpq, hr]; exact hkq, fun i => ?_, done, rest, hd.trans hdrq, hdone, hrest, ?_, hb'⟩
    · have hni := hn i
      rw [completionsOf_cons, ← frameTag_val htag] at hni
      rw [putContext_rpq, hr, putContext_contexts, set_get]
      by_cases hfi : frameTag f = i
      · subst hfi
        rw [hc] at hrep
        simp only [hkind, hrep, and_self, if_true] at hni
        simp [Context.free]
        omega
      · simpa [-Fin.getElem_fin, hkind, hfi, Fin.val_inj, hc] using hni
    · rw [putContext_rpq, hr, ← hi]
      simp [responseIds, hkind, Kind.completion, Kind.response]
  · exfalso
    have htag : f.header.tag.toNat < 64 := by
      rcases hk f List.mem_cons_self with h | h
      · rw [hkind] at h
        exact absurd h (by decide)
      · exact h.2
    have hni := hn (frameTag f)
    rw [completionsOf_cons, ← frameTag_val htag, ← hc, if_neg hrep] at hni
    simp [hkind] at hni
  · have hresp : f.header.kind = Kind.response := (hk f List.mem_cons_self).resolve_right fun h => hkind h.1
    have hids : f.header.tag :: responseIds q = done.map (fun e => e.frame.header.tag) := by
      rw [← hi]
      simp [responseIds, hresp]
    cases done with
    | nil => cases hids
    | cons d ds =>
      rw [List.map_cons] at hids
      refine ⟨by rw [hr]; exact hkq, fun i => ?_, ds, rest, ?_, fun x hx => hdone x (List.mem_cons_of_mem _ hx), hrest, ?_, hb'⟩
      · have hni := hn i
        rw [completionsOf_cons] at hni
        simpa [hkind, hr, hc] using hni
      · rw [hd, hdrq]
        rfl
      · rw [hr]
        exact (List.cons.inj hids).2

theorem Owed.frontSent {s : State} (h : Owed [] s) (hs : s.front.sending = some .rpq) : Owed [] (frontSent s) := by
  unfold Machine.frontSent
  rw [hs]
  dsimp only
  cases hq : s.rpq with
  | nil => exact h.congr (by simp [hq]) rfl id fun _ => Iff.rfl
  | cons f q => exact h.reportLeaves hq rfl rfl rfl rfl

theorem Owed.reset {s : State} (hr : s.rpq = []) (hc : s.contexts = State.reset.contexts) (hdu : s.du = none)
    (hd : ∀ e ∈ s.drq, e.executed = false) : Owed [] s := by
  refine ⟨by simp [hr], fun t => ?_, [], s.drq, rfl, by simp, hd, by rw [hr]; rfl, by simp [hdu]⟩
  rw [hr, hc, if_neg]
  · rfl
  · simp [State.reset, Context.free]

theorem Owed.resetEngineBody {s : State} (p : Bytes) : Owed [] (resetEngineBody p s) := by
  unfold Machine.resetEngineBody
  refine Owed.answer (s := { State.reset with
      time := s.time, front := s.front.engineReset, media := s.media.engineReset,
      drq := (firstUnexecuted s.drq).toList, events := s.events.engineReset, pending := s.pending })
    (Owed.reset rfl rfl rfl fun e he => ?_) ..
  have := List.find?_some (Option.mem_toList.mp he)
  simpa using this

/-! ### The law -/

/-- A directive waits behind the executed ones while the unit is IDLE (R138). -/
theorem Owed.begun {s t : State} (h : Owed [] s) (hb : Begins s) (hr : t.rpq = s.rpq) (hd : t.drq = s.drq)
    (hc : t.contexts = s.contexts) : Owed [] t := by
  obtain ⟨hk, hn, done, rest, hq, hdone, hrest, hi, _⟩ := h
  refine ⟨hr ▸ hk, fun i => by rw [hr, hc]; exact hn i, done, rest, hd.trans hq, hdone, hrest, by rw [hr, hi], fun _ => ?_⟩
  have hsome := hb.2
  rw [hq] at hsome
  exact (firstUnexecuted_isSome hdone hrest).mp hsome

theorem Owed.turn {s t : State} (hturn : Turn s t) (h : Owed [] s) : Owed [] t := by
  cases hturn with
  | port hp => exact h.core hp.core
  | opens q _ hf => exact h.takeOpen hf
  | ends t e fail => exact h.endTransfer e fail List.not_mem_nil
  | bypasses q r _ _ hb => exact h.takeBypass hb r
  | starts l side q k _ _ hw => exact h.startJob hw l k
  | completes l j => exact h.completeJob l j
  | handsOff l j f q => exact h.enterOutput ..
  | directive f =>
    obtain ⟨hk, hn, done, rest, hq, hd, hr, hi, hb⟩ := h
    refine ⟨hk, hn, done, rest ++ [_], by rw [hq, List.append_assoc], hd, ?_, hi, fun _ => by simp⟩
    simpa [or_imp, forall_and] using hr
  | reportSent _ hs => exact h.frontSent hs
  | frontLost => exact h.frontLoss
  | mediaLost => exact h.mediaLoss
  | answers r data => exact h.answer r data
  | defines | disables | locks | limits => exact h.congr rfl rfl id fun _ => Iff.rfl
  | wraps _ _ _ _ _ _ _ _ hdu => exact h.congr rfl rfl (fun _ => by rw [hdu]; rfl) fun _ => Iff.rfl
  | resets p => exact Owed.resetEngineBody p
  | powers b => exact Owed.reset rfl rfl rfl (fun e he => (List.not_mem_nil he).elim)
  | fills k task _ hb => exact h.begun hb rfl rfl rfl
  | fillFails k r => exact (h.emptySlot k).answer ..
  | fillEnds k dk tk g data => 
    have hready : Owed [] (readySlot k dk tk g s) := h.congr rfl rfl id fun _ => Iff.rfl
    exact hready.answer ..
  | drains k goal timer _ hb =>
    have hbegun : Owed [] (drainBegun k goal timer s) := h.begun hb rfl rfl rfl
    split_ifs
    · exact hbegun.completeDrain rfl k goal
    · exact hbegun
  | timerStops =>
    unfold stopDrainTimer
    split <;> [skip; exact h]
    next hdu => exact h.congr rfl rfl (fun _ => by rw [hdu]; rfl) fun _ => Iff.rfl

/-! ### Seventy-two frames at most -/

theorem sum_completions (q : List Frame)
    (h : ∀ f ∈ q, f.header.kind = Kind.response ∨ (f.header.kind = Kind.completion ∧ f.header.tag.toNat < 64)) :
    q.length = (∑ t : Tag, completionsOf t q) + (responseIds q).length := by
  induction q with
  | nil => rfl
  | cons f q ih =>
    have ih := ih fun g hg => h g (List.mem_cons_of_mem _ hg)
    simp only [completionsOf_cons, Finset.sum_add_distrib]
    rw [List.length_cons, ih]
    rcases h f List.mem_cons_self with hk | ⟨hk, ht⟩
    · have hne : ¬ Kind.response = Kind.completion := by decide
      simp [hk, hne, responseIds]
      omega
    · have hne : ¬ Kind.completion = Kind.response := by decide
      have hone : (∑ t : Tag, if f.header.tag.toNat = t.val then 1 else 0) = 1 := by
        simp [← frameTag_val ht, Fin.val_inj]
      simp only [hk, true_and, hone]
      simp [hk, hne, responseIds]
      omega

/-- The Report Queue holds at most one COMPLETION for each context and one RESPONSE for each entry (R81, R91). -/
theorem reports_le {s : State} (h : ReportsOwed s) (hd : s.drq.length ≤ 8) : s.rpq.length ≤ 72 := by
  obtain ⟨hk, hn, hi, -, -⟩ := h
  have hids : (responseIds s.rpq).length ≤ 8 := by
    rw [hi, List.length_map]
    exact (List.length_filter_le _ _).trans hd
  have hsum : (∑ t : Tag, completionsOf t s.rpq) ≤ 64 := by
    have hone : ∀ t ∈ Finset.univ, completionsOf t s.rpq ≤ 1 := fun t _ => by
      rw [hn t]
      split_ifs <;> omega
    simpa using Finset.sum_le_card_nsmul Finset.univ (fun t : Tag => completionsOf t s.rpq) 1 hone
  have := sum_completions s.rpq hk
  omega

end Sys2Proof.Machine

namespace Sys2Proof.Machine

/-- Settles O12: every turn keeps what is owed, and a bounded Directive Queue bounds the RESPONSEs. -/
theorem reportsStayOwed : Obligations.ReportsStayOwed :=
  ⟨stepKeeps_of_turn fun s t hturn h => (reportsOwed_iff t).mpr (((reportsOwed_iff s).mp h).turn hturn),
    fun _ h hd => reports_le h hd⟩

end Sys2Proof.Machine
end

section
/-! PROOFS. The accounts of the lanes (R41, R62, R63, R107 to R112): pins and jobs in flight count the lane jobs, the counters
of a context agree, and the hold lists name the lanes that hold. -/

namespace Sys2Proof.Machine

/-! ### Counting -/

theorem length_filter_eq_sum {α : Type} (p : α → Bool) (l : List α) :
    (l.filter p).length = (l.map (fun a => if p a = true then 1 else 0)).sum := by
  induction l with
  | nil => rfl
  | cons a l ih => cases h : p a <;> simp [h, ih, Nat.add_comm]

/-- A lane counts when it has a job that meets the test. -/
def Lane.weight (p : Job → Bool) (x : Lane) : Nat := if x.job.any p = true then 1 else 0

theorem jobsInFlight_eq (p : Job → Bool) (s : State) : jobsInFlight p s = ∑ l : LaneIx, s.lanes[l].weight p := by
  unfold jobsInFlight allLanes
  rw [length_filter_eq_sum, Fin.sum_univ_def]
  congr 2
  funext l
  unfold Lane.weight
  cases s.lanes[l].job <;> rfl

/-- A lane that changes changes the count by its own part. -/
theorem jobsInFlight_set (p : Job → Bool) {s t : State} {l : LaneIx} {x : Lane} (h : t.lanes = s.lanes.set l x) :
    jobsInFlight p t + s.lanes[l].weight p = jobsInFlight p s + x.weight p := by
  have hsplit (f : LaneIx → Nat) : ∑ i, f i = f l + ∑ i ∈ Finset.univ.erase l, f i :=
    (Finset.add_sum_erase _ _ (Finset.mem_univ l)).symm
  rw [jobsInFlight_eq, jobsInFlight_eq, hsplit, hsplit (fun i => s.lanes[i].weight p), h]
  have hrest : ∑ i ∈ Finset.univ.erase l, (s.lanes.set l x)[i].weight p = ∑ i ∈ Finset.univ.erase l, s.lanes[i].weight p :=
    Finset.sum_congr rfl fun i hi => by rw [set_get_ne _ _ (Finset.ne_of_mem_erase hi).symm]
  rw [hrest, set_get_self]
  omega

theorem jobsInFlight_pos {p : Job → Bool} {s : State} {l : LaneIx} {j : Job} (hl : s.lanes[l].job = some j) (hp : p j = true) :
    1 ≤ jobsInFlight p s := by
  have hw : s.lanes[l].weight p = 1 := by simp [-Fin.getElem_fin, Lane.weight, hl, hp]
  rw [jobsInFlight_eq, ← hw]
  exact Finset.single_le_sum (f := fun i : LaneIx => s.lanes[i].weight p) (fun _ _ => Nat.zero_le _) (Finset.mem_univ l)

/-- A mark that was not set raises the number of marks by one. -/
theorem markCount_set {m : BitVec 256} {i : Nat} (hi : i < 256) (hm : m.getLsbD i = false) :
    markCount (m ||| (1#256 <<< i)) = markCount m + 1 := by
  have hbit (j : Nat) : (m ||| (1#256 <<< i)).getLsbD j = (m.getLsbD j || decide (i = j)) := by
    have htwo : (1#256 <<< i).getLsbD j = decide (i = j) := by
      rw [show 1#256 <<< i = BitVec.twoPow 256 i from rfl, BitVec.getLsbD_twoPow]
      simp [hi]
    rw [BitVec.getLsbD_or, htwo]
  have hsum (f : Nat → Nat) (n : Nat) : ((List.range n).map f).sum = ∑ j ∈ Finset.range n, f j := by
    induction n with
    | zero => rfl
    | succ n ih => simp [List.range_succ, Finset.sum_range_succ, ih]
  have hcount (n : BitVec 256) : markCount n = ∑ j ∈ Finset.range 256, if n.getLsbD j = true then 1 else 0 := by
    unfold markCount
    rw [length_filter_eq_sum, hsum]
  have hone : ∑ j ∈ Finset.range 256, (if i = j then 1 else 0) = 1 := by
    rw [Finset.sum_ite_eq, if_pos (Finset.mem_range.mpr hi)]
  calc markCount (m ||| (1#256 <<< i))
      = ∑ j ∈ Finset.range 256, ((if m.getLsbD j = true then 1 else 0) + (if i = j then 1 else 0)) := by
        rw [hcount]
        refine Finset.sum_congr rfl fun j _ => ?_
        rw [hbit j]
        by_cases hij : i = j
        · subst hij
          simp [hm]
        · simp [hij]
    _ = markCount m + 1 := by rw [Finset.sum_add_distrib, hone, hcount]

/-! ### The counters of one context -/

/-- A context without jobs in flight may report. -/
theorem CountersAgree.reporting {c : Context} (h : CountersAgree c) (hj : c.jobs = 0) (e : Option Ending) :
    CountersAgree { c with state := .reporting, ending := e, deadline := none } := by
  obtain ⟨hb, hm, -⟩ := h
  exact ⟨hb, hm, nofun, nofun, nofun, nofun, fun _ => hj⟩

/-- The ending status and the suppression of a completion are no matter of the counters. -/
theorem CountersAgree.relabelled {c : Context} (h : CountersAgree c) (hs : c.state ≠ .free) (e : Option Ending) (b : Bool) :
    CountersAgree { c with ending := e, suppressed := b } := by
  obtain ⟨hb, hm, -, hrest⟩ := h
  exact ⟨hb, hm, fun h => absurd h hs, hrest⟩

theorem countersAgree_free : CountersAgree Context.free := by
  refine ⟨by decide, nofun, fun _ => rfl, nofun, nofun, nofun, nofun⟩

/-- A running context may end. -/
theorem CountersAgree.ending {c : Context} (h : CountersAgree c) (hr : c.state.running = true) (e : Option Ending)
    (fail : Option Nat) (b : Bool) :
    CountersAgree { c with state := .ending, ending := e, firstFail := fail, deadline := none, suppressed := b } := by
  obtain ⟨hb, hm, -, ha, hf, -⟩ := h
  refine ⟨hb, hm, nofun, nofun, nofun, fun _ => ?_, nofun⟩
  change c.finished + c.jobs ≤ c.taken
  cases hs : c.state with
  | active => exact (ha hs).1.ge
  | flushing => exact (hf hs).1.ge
  | _ => rw [hs] at hr; cases hr

/-- The taking of a sector, by a lane or by the bypass, which delivers it at once (R71, R74). -/
theorem CountersAgree.take {c : Context} (h : CountersAgree c) (ha : c.state = .active) {i n f : Nat} (hnf : n + f = 1)
    (hi : c.direction = .read → i < 256 ∧ c.marks.getLsbD i = false) (d : Option Time) (x : ReadCounts) :
    CountersAgree { c.take d i n with finished := c.finished + f, counts := x } := by
  obtain ⟨⟨hc1, hc2, ht, hf⟩, hm, -, hact, -⟩ := h
  obtain ⟨htake, hlt⟩ := hact ha
  have hmarks : c.direction = .read → markCount (c.marks ||| (1#256 <<< i)) = c.taken + 1 := fun hd => by
    rw [markCount_set (hi hd).1 (hi hd).2, hm hd]
  unfold Context.take
  by_cases hfull : c.taken + 1 = c.count
  · simp only [hfull, if_true]
    refine ⟨⟨hc1, hc2, le_refl _, by dsimp only; omega⟩, fun hd => ?_, nofun, nofun, fun _ => ⟨by dsimp only; omega, rfl⟩,
      nofun, nofun⟩
    change c.direction = .read at hd
    simp only [hd]
    rw [hmarks hd, hfull]
  · simp only [hfull, if_false]
    refine ⟨⟨hc1, hc2, by dsimp only; omega, by dsimp only; omega⟩, fun hd => ?_, fun hs => ?_, fun _ => ⟨by dsimp only; omega, by dsimp only; omega⟩,
      fun hs => ?_, fun hs => ?_, fun hs => ?_⟩
    · change c.direction = .read at hd
      simp only [hd]
      exact hmarks hd
    all_goals
      change c.state = _ at hs
      rw [ha] at hs
      cases hs

/-- A job of a context leaves: its sector is counted (`f` is 1), or, of an ending context, discarded (`f` is 0). -/
theorem CountersAgree.leaves {c : Context} (h : CountersAgree c) (hj : 1 ≤ c.jobs) {f : Nat}
    (hf : f = 1 ∨ f = 0 ∧ c.state.running = false) (x : ReadCounts) :
    CountersAgree { c with jobs := c.jobs - 1, finished := c.finished + f, counts := x } := by
  obtain ⟨⟨hc1, hc2, ht, hfin⟩, hm, hfree, hact, hflush, hend, hrep⟩ := h
  have hnf : c.state ≠ .free := fun e => by
    have := hfree e
    rw [this] at hj
    simp [Context.free] at hj
  have hnr : c.state ≠ .reporting := fun e => by
    have := hrep e
    omega
  have hle : c.finished + c.jobs ≤ c.taken := by
    cases hs : c.state with
    | free => exact absurd hs hnf
    | active => exact (hact hs).1.ge
    | flushing => exact (hflush hs).1.ge
    | ending => exact hend hs
    | reporting => exact absurd hs hnr
  have hrun : c.state.running = true → f = 1 := fun hr => hf.resolve_right fun ⟨_, hn⟩ => by
    rw [hr] at hn
    cases hn
  refine ⟨⟨hc1, hc2, ht, by dsimp only; omega⟩, hm, fun hs => absurd hs hnf, fun hs => ?_, fun hs => ?_, fun _ => by dsimp only; omega,
    fun hs => absurd hs hnr⟩
  · change c.state = _ at hs
    have := hrun (by rw [hs]; rfl)
    have := hact hs
    dsimp only
    omega
  · change c.state = _ at hs
    have := hrun (by rw [hs]; rfl)
    have := hflush hs
    dsimp only
    omega

/-! ### The books -/

/-- The pin counts and the jobs in flight are the lane jobs that name them. -/
structure Balanced (s : State) : Prop where
  pins : ∀ k : SlotIx, s.slots[k].pins = jobsInFlight (fun j => j.slot == k) s
  jobs : ∀ t : Tag, s.contexts[t].jobs = jobsInFlight (fun j => j.tag == t) s

/-- The hold lists name, once each, the lanes that are HOLDING for their queues. -/
structure Listed (s : State) : Prop where
  moqOnce : s.moqHold.Nodup
  fsqOnce : s.fsqHold.Nodup
  moq : ∀ l : LaneIx, l ∈ s.moqHold ↔ heldFor s.lanes[l] = some .moq
  fsq : ∀ l : LaneIx, l ∈ s.fsqHold ↔ heldFor s.lanes[l] = some .fsq

/-- A READ output is held for an ACTIVE or FLUSHING context. -/
def HeldRuns (s : State) : Prop :=
  ∀ (l : LaneIx) (t : Tag), heldRead s.lanes[l] = some t → s.contexts[t].state.running = true

/-- The accounts of the lanes, and, where `strict` holds, the hold lists beside them. -/
structure Books (strict : Prop) (s : State) : Prop where
  balanced : Balanced s
  counters : ∀ t : Tag, CountersAgree s.contexts[t]
  listed : strict → Listed s
  held : strict → HeldRuns s

theorem laneAccounts_iff (s : State) : LaneAccounts s ↔ Books False s :=
  ⟨fun ⟨hp, hj, hc⟩ => ⟨⟨hp, hj⟩, hc, False.elim, False.elim⟩, fun ⟨⟨hp, hj⟩, hc, _, _⟩ => ⟨hp, hj, hc⟩⟩

theorem holdListsAgree_iff (s : State) : HoldListsAgree s ↔ Books True s :=
  ⟨fun ⟨⟨hp, hj, hc⟩, h1, h2, h3, h4, h5⟩ => ⟨⟨hp, hj⟩, hc, fun _ => ⟨h1, h2, h3, h4⟩, fun _ => h5⟩,
    fun ⟨⟨hp, hj⟩, hc, hl, hh⟩ =>
      ⟨⟨hp, hj, hc⟩, (hl trivial).moqOnce, (hl trivial).fsqOnce, (hl trivial).moq, (hl trivial).fsq, hh trivial⟩⟩

theorem jobsInFlight_congr (p : Job → Bool) {s t : State} (h : t.lanes = s.lanes) : jobsInFlight p t = jobsInFlight p s := by
  rw [jobsInFlight_eq, jobsInFlight_eq, h]

theorem Balanced.congr {s t : State} (h : Balanced s) (hl : t.lanes = s.lanes)
    (hp : ∀ k : SlotIx, t.slots[k].pins = s.slots[k].pins) (hj : ∀ i : Tag, t.contexts[i].jobs = s.contexts[i].jobs) :
    Balanced t :=
  ⟨fun k => by rw [hp, h.pins, jobsInFlight_congr _ hl], fun i => by rw [hj, h.jobs, jobsInFlight_congr _ hl]⟩

theorem Balanced.job_pos {s : State} (h : Balanced s) {l : LaneIx} {j : Job} (hl : s.lanes[l].job = some j) :
    1 ≤ s.contexts[j.tag].jobs := by
  rw [h.jobs]
  exact jobsInFlight_pos hl (beq_self_eq_true _)

theorem Balanced.pin_pos {s : State} (h : Balanced s) {l : LaneIx} {j : Job} (hl : s.lanes[l].job = some j) :
    1 ≤ s.slots[j.slot].pins := by
  rw [h.pins]
  exact jobsInFlight_pos hl (beq_self_eq_true _)

theorem heldRead_job {x : Lane} {t : Tag} (h : heldRead x = some t) : ∃ j, x.job = some j ∧ j.tag = t := by
  unfold heldRead at h
  split at h
  · exact ⟨_, rfl, Option.some.inj h⟩
  · cases h

/-- The lane jobs, the slots' pins and the contexts' jobs in flight are as before. -/
theorem Books.congr {strict : Prop} {s t : State} (h : Books strict s) (hl : t.lanes = s.lanes) (hm : t.moqHold = s.moqHold)
    (hf : t.fsqHold = s.fsqHold) (hp : ∀ k : SlotIx, t.slots[k].pins = s.slots[k].pins) (hc : t.contexts = s.contexts) :
    Books strict t where
  balanced := h.balanced.congr hl hp fun i => by rw [hc]
  counters := hc ▸ h.counters
  listed := fun x => by
    obtain ⟨h1, h2, h3, h4⟩ := h.listed x
    exact ⟨hm ▸ h1, hf ▸ h2, by rw [hm, hl]; exact h3, by rw [hf, hl]; exact h4⟩
  held := fun x l i => by
    rw [hl, hc]
    exact h.held x l i

theorem Books.core {strict : Prop} {s t : State} (h : Books strict s) (c : SameCore s t) : Books strict t :=
  h.congr c.lanes c.moqHold c.fsqHold (fun k => by rw [c.slots]) c.contexts

/-- A context's record changes: its jobs stay, and it runs on or has no job. -/
theorem Books.putContext {strict : Prop} {s : State} (h : Books strict s) {t : Tag} (c : Context)
    (hj : c.jobs = s.contexts[t].jobs) (hc : CountersAgree c)
    (hr : s.contexts[t].state.running = true → c.state.running = true ∨ c.jobs = 0) : Books strict (putContext t c s) where
  balanced := h.balanced.congr rfl (fun _ => rfl) fun i => by
    rw [putContext_contexts, set_get]
    split_ifs with hi
    · rw [← hi, hj]
    · rfl
  counters := fun i => by
    rw [putContext_contexts, set_get]
    split_ifs
    · exact hc
    · exact h.counters i
  listed := fun x => by
    obtain ⟨h1, h2, h3, h4⟩ := h.listed x
    exact ⟨h1, h2, h3, h4⟩
  held := fun x l i hi => by
    have hrun := h.held x l i hi
    rw [putContext_contexts, set_get]
    split_ifs with hti
    · subst hti
      refine (hr hrun).resolve_right fun h0 => ?_
      obtain ⟨j, hlj, rfl⟩ := heldRead_job hi
      have := h.balanced.job_pos hlj
      omega
    · exact hrun

theorem answer_pins (r : Result) (data : Bytes) (k i : SlotIx) (s : State) :
    (answer r data (emptySlot k s)).slots[i].pins = s.slots[i].pins := by
  rw [answer_slots, emptySlot, putSlot_slots, set_get]
  split_ifs with h <;> [rw [h]; rfl]

theorem fillingSlot_pins (k i : SlotIx) (s : State) : (fillingSlot k s).slots[i].pins = s.slots[i].pins := by
  rw [fillingSlot, putSlot_slots, set_get]
  split_ifs with h <;> [rw [h]; rfl]

theorem completeDrain_pins (k : SlotIx) (goal : DrainGoal) (s : State) (i : SlotIx) :
    (completeDrain k goal s).slots[i].pins = s.slots[i].pins := by
  unfold completeDrain
  split
  · exact answer_pins ..
  · split_ifs
    · exact answer_pins ..
    · exact fillingSlot_pins ..

theorem leaveDrain_pins (t : Tag) (s : State) (i : SlotIx) : (leaveDrain t s).slots[i].pins = s.slots[i].pins := by
  have hput (k : SlotIx) (d : List Tag) :
      (putSlot k { s.slots[k] with drainSet := d } s).slots[i].pins = s.slots[i].pins := by
    rw [putSlot_slots, set_get]
    split_ifs with h <;> [rw [h]; rfl]
  unfold leaveDrain
  split
  · dsimp only
    split_ifs
    · rw [completeDrain_pins, hput]
    · exact hput ..
    · rfl
  · rfl

theorem completeDrain_moqHold (k : SlotIx) (goal : DrainGoal) (s : State) : (completeDrain k goal s).moqHold = s.moqHold := by
  unfold completeDrain
  split
  · exact answer_moqHold ..
  · split_ifs <;> [exact answer_moqHold ..; rfl]

theorem completeDrain_fsqHold (k : SlotIx) (goal : DrainGoal) (s : State) : (completeDrain k goal s).fsqHold = s.fsqHold := by
  unfold completeDrain
  split
  · exact answer_fsqHold ..
  · split_ifs <;> [exact answer_fsqHold ..; rfl]

theorem completeDrain_lanes (k : SlotIx) (goal : DrainGoal) (s : State) : (completeDrain k goal s).lanes = s.lanes := by
  unfold completeDrain
  split
  · exact answer_lanes ..
  · split_ifs <;> [exact answer_lanes ..; rfl]

theorem completeDrain_contexts (k : SlotIx) (goal : DrainGoal) (s : State) : (completeDrain k goal s).contexts = s.contexts := by
  unfold completeDrain
  split
  · exact answer_contexts ..
  · split_ifs <;> [exact answer_contexts ..; rfl]

theorem leaveDrain_moqHold (t : Tag) (s : State) : (leaveDrain t s).moqHold = s.moqHold := by
  rcases leaveDrain_cases t s with he | ⟨k, goal, timer, silent, r, hdu, he | he⟩ <;> rw [he]
  · rfl
  · exact completeDrain_moqHold ..

theorem leaveDrain_fsqHold (t : Tag) (s : State) : (leaveDrain t s).fsqHold = s.fsqHold := by
  rcases leaveDrain_cases t s with he | ⟨k, goal, timer, silent, r, hdu, he | he⟩ <;> rw [he]
  · rfl
  · exact completeDrain_fsqHold ..

theorem Books.leaveDrain {strict : Prop} {s : State} (h : Books strict s) (t : Tag) : Books strict (leaveDrain t s) :=
  h.congr (leaveDrain_lanes t s) (leaveDrain_moqHold t s) (leaveDrain_fsqHold t s) (leaveDrain_pins t s)
    (leaveDrain_contexts t s)

theorem Books.completeDrain {strict : Prop} {s : State} (h : Books strict s) (k : SlotIx) (goal : DrainGoal) :
    Books strict (completeDrain k goal s) :=
  h.congr (completeDrain_lanes k goal s) (completeDrain_moqHold k goal s) (completeDrain_fsqHold k goal s)
    (completeDrain_pins k goal s) (completeDrain_contexts k goal s)

theorem Books.enterReporting {strict : Prop} {s : State} (h : Books strict s) {t : Tag} (hj : s.contexts[t].jobs = 0) :
    Books strict (enterReporting t s) := by
  have hput : Books strict (Machine.putContext t { s.contexts[t] with state := .reporting, deadline := none } s) :=
    h.putContext _ rfl ((h.counters t).reporting hj _) fun _ => Or.inr hj
  refine Books.leaveDrain ?_ t
  exact hput.congr rfl rfl rfl (fun _ => rfl) rfl

theorem Books.freeContext {strict : Prop} {s : State} (h : Books strict s) {t : Tag} (hj : s.contexts[t].jobs = 0) :
    Books strict (freeContext t s) :=
  (h.putContext Context.free hj.symm countersAgree_free fun _ => Or.inr rfl).leaveDrain t

theorem Books.leaveEnding {strict : Prop} {s : State} (h : Books strict s) (t : Tag) : Books strict (leaveEnding t s) := by
  unfold Machine.leaveEnding
  split_ifs with hc
  · exact h.freeContext hc.2
  · exact h.enterReporting hc.2
  · exact h

theorem Books.finishTransfer {strict : Prop} {s : State} (h : Books strict s) (t : Tag) :
    Books strict (finishTransfer t s) := by
  unfold Machine.finishTransfer
  split_ifs with hc
  · have hcount := h.counters t
    have hj : s.contexts[t].jobs = 0 := by
      obtain ⟨-, -, -, -, hf, -⟩ := hcount
      have := hf hc.1
      omega
    refine (h.putContext { s.contexts[t] with ending := some .done } rfl
      (hcount.relabelled (by rw [hc.1]; nofun) _ _) Or.inl).enterReporting ?_
    rw [putContext_contexts, set_get_self]
    exact hj
  · exact h

/-! ### A lane is released -/

theorem Lane.weight_idle (p : Job → Bool) : Lane.idle.weight p = 0 := rfl

theorem Lane.weight_job {p : Job → Bool} {x : Lane} {j : Job} (h : x.job = some j) :
    x.weight p = if p j = true then 1 else 0 := by
  simp [Lane.weight, h]

theorem Balanced.released {s : State} (h : Balanced s) {l : LaneIx} {j : Job} (hl : s.lanes[l].job = some j) :
    Balanced (s.released l j) := by
  have hset (p : Job → Bool) := jobsInFlight_set p (s := s) (t := s.released l j) (l := l) (x := .idle) rfl
  simp only [Lane.weight_idle, Lane.weight_job hl] at hset
  refine ⟨fun k => ?_, fun i => ?_⟩
  · have := hset (fun j => j.slot == k)
    have hpin := h.pins k
    change (s.slots.set j.slot _)[k].pins = _
    rw [set_get]
    split_ifs with hk
    · subst hk
      simp only [beq_self_eq_true, if_true] at this
      dsimp only
      omega
    · simp only [beq_eq_false_iff_ne.mpr hk, Bool.false_eq_true, if_false] at this
      omega
  · have := hset (fun j => j.tag == i)
    have hjob := h.jobs i
    change (s.contexts.set j.tag _)[i].jobs = _
    rw [set_get]
    split_ifs with hk
    · subst hk
      simp only [beq_self_eq_true, if_true] at this
      dsimp only
      omega
    · simp only [beq_eq_false_iff_ne.mpr hk, Bool.false_eq_true, if_false] at this
      omega

theorem Listed.released {s : State} (h : Listed s) (l : LaneIx) (j : Job) : Listed (s.released l j) := by
  obtain ⟨h1, h2, h3, h4⟩ := h
  refine ⟨h1.erase l, h2.erase l, fun i => ?_, fun i => ?_⟩
  · change i ∈ s.moqHold.erase l ↔ heldFor (s.lanes.set l .idle)[i] = _
    rw [h1.mem_erase_iff, h3, set_get]
    split_ifs with hi
    · subst hi
      simp [heldFor]
    · exact and_iff_right (Ne.symm hi)
  · change i ∈ s.fsqHold.erase l ↔ heldFor (s.lanes.set l .idle)[i] = _
    rw [h2.mem_erase_iff, h4, set_get]
    split_ifs with hi
    · subst hi
      simp [heldFor]
    · exact and_iff_right (Ne.symm hi)

theorem heldRead_set_idle {s : State} {l i : LaneIx} {t : Tag} (h : heldRead (s.lanes.set l .idle)[i] = some t) :
    heldRead s.lanes[i] = some t := by
  rw [set_get] at h
  split_ifs at h
  · cases h
  · exact h

/-- A job leaves its lane and the books: its sector is counted (`f` is 1), or discarded (`f` is 0). -/
theorem Books.leaves {strict : Prop} {s : State} (h : Books strict s) {l : LaneIx} {j : Job}
    (hl : s.lanes[l].job = some j) {f : Nat} (hf : f = 1 ∨ f = 0 ∧ s.contexts[j.tag].state.running = false) (x : ReadCounts)
    {u : State} (hlanes : u.lanes = (s.released l j).lanes) (hm : u.moqHold = (s.released l j).moqHold)
    (hq : u.fsqHold = (s.released l j).fsqHold) (hs : u.slots = (s.released l j).slots)
    (hc : u.contexts = s.contexts.set j.tag
      { s.contexts[j.tag] with
        jobs := s.contexts[j.tag].jobs - 1, finished := s.contexts[j.tag].finished + f, counts := x }) :
    Books strict u where
  balanced := (h.balanced.released hl).congr hlanes (fun k => by rw [hs]) fun i => by
    change _ = (s.contexts.set j.tag _)[i].jobs
    rw [hc, set_get, set_get]
    split_ifs <;> rfl
  counters := fun i => by
    rw [hc, set_get]
    split_ifs with hi
    · exact (h.counters j.tag).leaves (h.balanced.job_pos hl) hf x
    · exact h.counters i
  listed := fun y => by
    obtain ⟨h1, h2, h3, h4⟩ := (h.listed y).released l j
    exact ⟨hm ▸ h1, hq ▸ h2, by rw [hm, hlanes]; exact h3, by rw [hq, hlanes]; exact h4⟩
  held := fun y i t ht => by
    rw [hlanes] at ht
    have hrun := h.held y i t (heldRead_set_idle ht)
    rw [hc, set_get]
    split_ifs with htag
    · subst htag
      exact hrun
    · exact hrun

/-- An output of a context that does not run is discarded: the books agree. -/
theorem Books.released {strict : Prop} {s : State} (h : Books strict s) {l : LaneIx} {j : Job}
    (hl : s.lanes[l].job = some j) (hs : s.contexts[j.tag].state.running = false) : Books strict (s.released l j) :=
  h.leaves hl (Or.inr ⟨rfl, hs⟩) s.contexts[j.tag].counts rfl rfl rfl rfl rfl

theorem Books.discardOutput {strict : Prop} {s : State} (h : Books strict s) {l : LaneIx} {j : Job}
    (hl : s.lanes[l].job = some j) (hs : s.contexts[j.tag].state.running = false) : Books strict (discardOutput l j s) :=
  (h.released hl hs).leaveEnding j.tag

/-! ### The ending of a transfer -/

theorem unreadLane_cases (t : Tag) (x : State) (l : LaneIx) :
    (heldRead x.lanes[l] = some t ∧ ∃ j, x.lanes[l].job = some j ∧ j.tag = t ∧ unreadLane t x l = x.released l j) ∨
    (heldRead x.lanes[l] ≠ some t ∧ unreadLane t x l = x) := by
  unfold unreadLane
  rcases x.lanes[l] with _ | _ | ⟨j, f, _ | _⟩
  · exact Or.inr ⟨nofun, rfl⟩
  · exact Or.inr ⟨nofun, rfl⟩
  · exact Or.inr ⟨nofun, rfl⟩
  · by_cases hj : j.tag = t
    · exact Or.inl ⟨by simp [heldRead, hj], j, rfl, hj, by simp [hj]⟩
    · exact Or.inr ⟨by simp [heldRead, hj], by simp [hj]⟩

theorem unreadLane_lanes (t : Tag) (x : State) (l i : LaneIx) :
    (unreadLane t x l).lanes[i] = if i = l ∧ heldRead x.lanes[i] = some t then .idle else x.lanes[i] := by
  rcases unreadLane_cases t x l with ⟨hh, j, -, -, he⟩ | ⟨hh, he⟩ <;> rw [he]
  · change (x.lanes.set l .idle)[i] = _
    rw [set_get]
    by_cases hi : l = i
    · subst hi
      simp [-Fin.getElem_fin, hh]
    · simp [-Fin.getElem_fin, hi, Ne.symm hi]
  · rw [if_neg]
    rintro ⟨rfl, h⟩
    exact hh h

/-- A READ output held for the tag is gone, and every other lane is as it was (R79). -/
theorem unread_lanes (t : Tag) (s : State) (i : LaneIx) :
    (s.unread t).lanes[i] = if heldRead s.lanes[i] = some t then .idle else s.lanes[i] := by
  have all (ls : List LaneIx) : ∀ x : State,
      (ls.foldl (unreadLane t) x).lanes[i] = if i ∈ ls ∧ heldRead x.lanes[i] = some t then .idle else x.lanes[i] := by
    induction ls with
    | nil => simp
    | cons l ls ih =>
      intro x
      rw [List.foldl_cons, ih, unreadLane_lanes]
      have hidle : heldRead .idle ≠ some t := nofun
      by_cases hi : i = l
      · subst hi
        by_cases hh : heldRead x.lanes[i] = some t <;> simp [-Fin.getElem_fin, hh, hidle]
      · simp [-Fin.getElem_fin, hi]
  have := all allLanes s
  simp only [allLanes, List.mem_finRange, true_and] at this
  exact this

theorem released_contexts_ne (l : LaneIx) (j : Job) (s : State) {i : Tag} (h : j.tag ≠ i) :
    (s.released l j).contexts[i] = s.contexts[i] := set_get_ne _ _ h

theorem released_state (l : LaneIx) (j : Job) (s : State) (i : Tag) :
    (s.released l j).contexts[i].state = s.contexts[i].state := releaseLane_state l j s i

/-- Releasing lanes for a tag leaves every other context. -/
theorem unread_contexts_ne {t i : Tag} (h : t ≠ i) (s : State) : (s.unread t).contexts[i] = s.contexts[i] := by
  have all (ls : List LaneIx) : ∀ x : State, (ls.foldl (unreadLane t) x).contexts[i] = x.contexts[i] := by
    induction ls with
    | nil => exact fun _ => rfl
    | cons l ls ih =>
      refine fun x => (ih _).trans ?_
      rcases unreadLane_cases t x l with ⟨-, j, -, rfl, he⟩ | ⟨-, he⟩ <;> rw [he]
      exact released_contexts_ne l j x h
  exact all allLanes s

/-- A context has ended, and the READ outputs held for it are discarded. -/
theorem Books.unread {strict : Prop} {s : State} {t : Tag} (hb : Balanced s) (hc : ∀ i : Tag, CountersAgree s.contexts[i])
    (hl : strict → Listed s) (hs : s.contexts[t].state.running = false)
    (hh : strict → ∀ (l : LaneIx) (i : Tag), i ≠ t → heldRead s.lanes[l] = some i → s.contexts[i].state.running = true) :
    Books strict (s.unread t) := by
  have all (ls : List LaneIx) : ∀ x : State, Balanced x → (∀ i : Tag, CountersAgree x.contexts[i]) → (strict → Listed x) →
      x.contexts[t].state.running = false →
      Balanced (ls.foldl (unreadLane t) x) ∧ (∀ i : Tag, CountersAgree (ls.foldl (unreadLane t) x).contexts[i]) ∧
        (strict → Listed (ls.foldl (unreadLane t) x)) := by
    induction ls with
    | nil => exact fun x hb hc hl _ => ⟨hb, hc, hl⟩
    | cons l ls ih =>
      intro x hb hc hl hs
      rcases unreadLane_cases t x l with ⟨-, j, hlj, rfl, he⟩ | ⟨-, he⟩ <;> rw [List.foldl_cons, he]
      · refine ih _ (hb.released hlj) (fun i => ?_) (fun y => (hl y).released l j) (by rw [released_state]; exact hs)
        by_cases hi : j.tag = i
        · subst hi
          change CountersAgree (x.contexts.set j.tag _)[j.tag]
          rw [set_get_self]
          exact (hc j.tag).leaves (hb.job_pos hlj) (f := 0) (Or.inr ⟨rfl, hs⟩) x.contexts[j.tag].counts
        · rw [released_contexts_ne l j x hi]
          exact hc i
      · exact ih x hb hc hl hs
  obtain ⟨hb', hc', hl'⟩ := all allLanes s hb hc hl hs
  refine ⟨hb', hc', hl', fun y l i hi => ?_⟩
  rw [unread_lanes] at hi
  split_ifs at hi with ht
  · cases hi
  · have hne : i ≠ t := by
      rintro rfl
      exact ht hi
    rw [unread_contexts_ne hne.symm]
    exact hh y l i hne hi

/-- The ending of a transfer, its lanes released first (R79, R80). -/
theorem enterEnding_eq (t : Tag) (c : Context) (s : State) :
    enterEnding t c s = leaveEnding t ((discardMediaHead t (discardFrontHead t
      (putContext t { c with state := .ending, deadline := none } s))).unread t) := by
  unfold enterEnding
  exact discardHeldReads_leaveEnding ..

theorem discardHeads_core (t : Tag) (s : State) : SameCore s (discardMediaHead t (discardFrontHead t s)) :=
  (discardFrontHead_core t s).trans (discardMediaHead_core t _)

theorem Books.enterEnding {strict : Prop} {s : State} (h : Books strict s) {t : Tag} (c : Context)
    (hj : c.jobs = s.contexts[t].jobs) (hc : CountersAgree { c with state := .ending, deadline := none }) :
    Books strict (enterEnding t c s) := by
  rw [enterEnding_eq]
  refine Books.leaveEnding ?_ t
  have hcore := discardHeads_core t (Machine.putContext t { c with state := .ending, deadline := none } s)
  generalize discardMediaHead t (discardFrontHead t _) = u at hcore ⊢
  refine Books.unread (h.balanced.congr hcore.lanes (fun k => by rw [hcore.slots]; rfl) fun i => ?_) (fun i => ?_) (fun x => ?_)
    ?_ (fun x l i hi hr => ?_)
  · rw [hcore.contexts, putContext_contexts, set_get]
    split_ifs with hi
    · rw [← hi]
      exact hj
    · rfl
  · rw [hcore.contexts, putContext_contexts, set_get]
    split_ifs
    · exact hc
    · exact h.counters i
  · obtain ⟨h1, h2, h3, h4⟩ := h.listed x
    exact ⟨hcore.moqHold ▸ h1, hcore.fsqHold ▸ h2, by rw [hcore.moqHold, hcore.lanes]; exact h3,
      by rw [hcore.fsqHold, hcore.lanes]; exact h4⟩
  · rw [hcore.contexts, putContext_contexts, set_get_self]
    rfl
  · rw [hcore.lanes] at hr
    rw [hcore.contexts, putContext_contexts, set_get_ne _ _ hi.symm]
    exact h.held x l i hr

theorem Books.endTransfer {strict : Prop} {s : State} (h : Books strict s) (t : Tag) (e : Ending) (fail : Option Nat) :
    Books strict (endTransfer t e fail s) := by
  unfold Machine.endTransfer
  split_ifs with hr
  · exact h.enterEnding _ rfl ((h.counters t).ending hr ..)
  · exact h

theorem Books.foldl {strict : Prop} {α : Type} {f : State → α → State} (hf : ∀ s a, Books strict s → Books strict (f s a))
    (l : List α) {s : State} (h : Books strict s) : Books strict (l.foldl f s) := by
  induction l generalizing s with
  | nil => exact h
  | cons a as ih => exact ih (hf s a h)

/-! ### What an ending leaves of the other contexts -/

theorem enterReporting_contexts (t : Tag) (s : State) :
    (enterReporting t s).contexts = s.contexts.set t { s.contexts[t] with state := .reporting, deadline := none } :=
  leaveDrain_contexts ..

theorem freeContext_contexts (t : Tag) (s : State) : (freeContext t s).contexts = s.contexts.set t Context.free :=
  leaveDrain_contexts ..

/-- A context leaves ENDING or everything stays as it is (R80). -/
theorem leaveEnding_cases (t : Tag) (s : State) :
    leaveEnding t s = s ∨ (s.contexts[t].state = .ending ∧ s.contexts[t].jobs = 0 ∧
      (leaveEnding t s = freeContext t s ∨ leaveEnding t s = enterReporting t s)) := by
  unfold leaveEnding
  split_ifs with hc hs
  · exact Or.inr ⟨hc.1, hc.2, Or.inl rfl⟩
  · exact Or.inr ⟨hc.1, hc.2, Or.inr rfl⟩
  · exact Or.inl rfl

theorem leaveEnding_contexts_ne {t i : Tag} (h : t ≠ i) (s : State) : (leaveEnding t s).contexts[i] = s.contexts[i] := by
  rcases leaveEnding_cases t s with he | ⟨-, -, he | he⟩ <;> rw [he]
  · rw [freeContext_contexts, set_get_ne _ _ h]
  · rw [enterReporting_contexts, set_get_ne _ _ h]

theorem leaveEnding_running (t : Tag) (s : State) (i : Tag) :
    (leaveEnding t s).contexts[i].state.running = s.contexts[i].state.running := by
  by_cases hi : t = i
  · subst hi
    rcases leaveEnding_cases t s with he | ⟨hs, -, he | he⟩ <;> rw [he]
    · rw [freeContext_contexts, set_get_self, hs]
      rfl
    · rw [enterReporting_contexts, set_get_self, hs]
      rfl
  · rw [leaveEnding_contexts_ne hi]

theorem enterEnding_contexts_ne {t i : Tag} (h : t ≠ i) (c : Context) (s : State) :
    (enterEnding t c s).contexts[i] = s.contexts[i] := by
  rw [enterEnding_eq, leaveEnding_contexts_ne h, unread_contexts_ne h, (discardHeads_core t _).contexts, putContext_contexts,
    set_get_ne _ _ h]

theorem enterEnding_not_running (t : Tag) (c : Context) (s : State) :
    (enterEnding t c s).contexts[t].state.running = false := by
  rw [enterEnding_eq, leaveEnding_running, unread_state, (discardHeads_core t _).contexts, putContext_contexts, set_get_self]
  rfl

theorem endTransfer_contexts_ne {t i : Tag} (h : t ≠ i) (e : Ending) (fail : Option Nat) (s : State) :
    (endTransfer t e fail s).contexts[i] = s.contexts[i] := by
  unfold endTransfer
  split_ifs
  · exact enterEnding_contexts_ne h ..
  · rfl

theorem endTransfer_not_running (t : Tag) (e : Ending) (fail : Option Nat) (s : State) :
    (endTransfer t e fail s).contexts[t].state.running = false := by
  unfold endTransfer
  split_ifs with h
  · exact enterEnding_not_running ..
  · simpa [-Fin.getElem_fin] using h

/-- When every context of a list is ended, none of it runs (R85). -/
theorem endTransfers_not_running (e : Ending) (fail : Option Nat) (l : List Tag) (s : State) {i : Tag}
    (h : i ∈ l ∨ s.contexts[i].state.running = false) :
    (l.foldl (fun s t => endTransfer t e fail s) s).contexts[i].state.running = false := by
  induction l generalizing s with
  | nil => exact h.resolve_left List.not_mem_nil
  | cons t l ih =>
    refine ih _ ?_
    by_cases hi : t = i
    · subst hi
      exact Or.inr (endTransfer_not_running ..)
    · rw [endTransfer_contexts_ne hi]
      rcases h with h | h
      · exact Or.inl ((List.mem_cons.mp h).resolve_left (Ne.symm hi))
      · exact Or.inr h

/-! ### Link losses -/

theorem Books.frontLossContext {strict : Prop} {s : State} (h : Books strict s) (t : Tag) :
    Books strict (frontLossContext t s) := by
  unfold Machine.frontLossContext
  dsimp only
  split
  · exact h
  · next hs => exact h.enterEnding _ rfl ((h.counters t).ending (by rw [hs]; rfl) ..)
  · next hs => exact h.enterEnding _ rfl ((h.counters t).ending (by rw [hs]; rfl) ..)
  · next hs =>
    refine Books.leaveEnding ?_ t
    exact h.putContext { s.contexts[t] with suppressed := true } rfl
      ((h.counters t).relabelled (by rw [hs]; nofun) _ true) Or.inl
  · next hs =>
    obtain ⟨-, -, -, -, -, -, hr⟩ := h.counters t
    exact h.freeContext (hr hs)

theorem Books.frontLoss {strict : Prop} {s : State} (h : Books strict s) : Books strict (frontLoss s) := by
  rw [frontLoss_eq]
  exact Books.foldl (fun s t h => h.frontLossContext t) _ (h.congr rfl rfl rfl (fun _ => rfl) rfl)

theorem Books.discardHeldWrite {strict : Prop} {s : State} (h : Books strict s)
    (hs : ∀ i : Tag, s.contexts[i].state.running = false) (l : LaneIx) :
    Books strict (discardHeldWrite l s) ∧ ∀ i : Tag, (discardHeldWrite l s).contexts[i].state.running = false := by
  unfold Machine.discardHeldWrite
  split
  · next hl =>
    refine ⟨h.discardOutput (by rw [hl]; rfl) (hs _), fun i => ?_⟩
    rw [Machine.discardOutput, leaveEnding_running, releaseLane_state]
    exact hs i
  · exact ⟨h, hs⟩

theorem Books.discardHeldWrites {strict : Prop} (ls : List LaneIx) {s : State} (h : Books strict s)
    (hs : ∀ i : Tag, s.contexts[i].state.running = false) :
    Books strict (ls.foldl (fun s l => Machine.discardHeldWrite l s) s) := by
  induction ls generalizing s with
  | nil => exact h
  | cons l ls ih =>
    obtain ⟨h', hs'⟩ := h.discardHeldWrite hs l
    exact ih h' hs'

theorem Books.mediaEnds {strict : Prop} {s : State} (h : Books strict s) : Books strict (mediaEnds s) := by
  unfold Machine.mediaEnds
  exact Books.discardHeldWrites _ (Books.foldl (fun s t h => h.endTransfer t _ _) _ h) fun i =>
    endTransfers_not_running _ _ _ _ (Or.inl (List.mem_finRange i))

theorem mediaCut_core (s : State) : SameCore s (mediaCut s) := by
  unfold mediaCut
  have hlost : SameCore s { s with media := s.media.lost, miq := [], moq := [], verdict := none } :=
    { SameCore.refl s with }
  exact hlost.trans (discardWaitingSector_core _)

theorem Books.mediaLoss {strict : Prop} {s : State} (h : Books strict s) : Books strict (mediaLoss s) := by
  have hempty : Books strict { mediaCut s with fiq := [] } := (h.core (mediaCut_core s)).congr rfl rfl rfl (fun _ => rfl) rfl
  have hends := hempty.mediaEnds
  rw [mediaLoss_eq]
  generalize Machine.mediaEnds _ = e at hends ⊢
  exact hends.congr rfl rfl rfl (fun _ => rfl) rfl

/-! ### Sectors -/

/-- What a job start does to the tables (R103). -/
theorem startJob_tables (l : LaneIx) (side : PortId) (q : Queued) (k : SlotIx) (s : State) :
    ∃ j : Job, j.tag = frameTag q.frame ∧ j.slot = k ∧
      (startJob l side q k s).lanes = s.lanes.set l (.running j) ∧
      (startJob l side q k s).slots = s.slots.set k { s.slots[k] with pins := s.slots[k].pins + 1 } ∧
      (startJob l side q k s).contexts =
        s.contexts.set j.tag (s.contexts[j.tag].take (idleDeadline s) (frameIndex q.frame) 1) ∧
      (startJob l side q k s).moqHold = s.moqHold ∧ (startJob l side q k s).fsqHold = s.fsqHold ∧
      (startJob l side q k s).du = s.du ∧ (startJob l side q k s).ranges = s.ranges ∧
      (startJob l side q k s).limits = s.limits := by
  cases side <;> exact ⟨_, rfl, rfl, rfl, rfl, rfl, rfl, rfl, rfl, rfl, rfl⟩

theorem Balanced.started {s u : State} (h : Balanced s) {l : LaneIx} (hl : s.lanes[l] = .idle) {j : Job} {c : Context}
    (hlanes : u.lanes = s.lanes.set l (.running j))
    (hslots : u.slots = s.slots.set j.slot { s.slots[j.slot] with pins := s.slots[j.slot].pins + 1 })
    (hctx : u.contexts = s.contexts.set j.tag c) (hc : c.jobs = s.contexts[j.tag].jobs + 1) : Balanced u := by
  have hset (p : Job → Bool) := jobsInFlight_set p hlanes
  simp only [hl, Lane.weight_idle, Lane.weight_job (x := .running j) rfl] at hset
  refine ⟨fun k => ?_, fun i => ?_⟩
  · have := hset (fun j => j.slot == k)
    have hpin := h.pins k
    rw [hslots, set_get]
    split_ifs with hk
    · subst hk
      simp only [beq_self_eq_true, if_true] at this
      dsimp only
      omega
    · simp only [beq_eq_false_iff_ne.mpr hk, Bool.false_eq_true, if_false] at this
      omega
  · have := hset (fun j => j.tag == i)
    have hjob := h.jobs i
    rw [hctx, set_get]
    split_ifs with hk
    · subst hk
      simp only [beq_self_eq_true, if_true] at this
      omega
    · simp only [beq_eq_false_iff_ne.mpr hk, Bool.false_eq_true, if_false] at this
      omega

/-- The frame of a candidate for a lane, or of a bypass, has an index that its transfer has not taken. -/
theorem belongsToRead_unmarked {q : Queued} {s : State} (h : belongsToRead q s = true) :
    frameIndex q.frame < 256 ∧ s.contexts[frameTag q.frame].marks.getLsbD (frameIndex q.frame) = false := by
  simp only [belongsToRead, Bool.and_eq_true, Bool.not_eq_true'] at h
  exact ⟨q.frame.header.index.isLt, h.2⟩

theorem waits_unmarked {side : PortId} {q : Queued} {s : State} (h : Waits side q s)
    (hd : s.contexts[frameTag q.frame].direction = .read) :
    frameIndex q.frame < 256 ∧ s.contexts[frameTag q.frame].marks.getLsbD (frameIndex q.frame) = false := by
  rcases h with ⟨_, _, h⟩ | ⟨_, _, _, h⟩
  · simp only [frontCandidate, Bool.and_eq_true, beq_iff_eq, hd] at h
    exact nomatch h.1.2
  · exact belongsToRead_unmarked h

theorem take_jobs (d : Option Time) (i n : Nat) (c : Context) : (c.take d i n).jobs = c.jobs + n := by
  unfold Context.take
  dsimp only
  split_ifs <;> rfl

theorem take_running (d : Option Time) (i n : Nat) {c : Context} (h : c.state = .active) :
    (c.take d i n).state.running = true := by
  rcases take_state d i n c with e | e <;> rw [e]
  · rfl
  · rw [h]
    rfl

theorem take_counts (d : Option Time) (i n : Nat) (c : Context) :
    (c.take d i n).finished = c.finished ∧ (c.take d i n).counts = c.counts := by
  unfold Context.take
  dsimp only
  split_ifs <;> exact ⟨rfl, rfl⟩

theorem Books.startJob {strict : Prop} {s : State} (h : Books strict s) {l : LaneIx} {side : PortId} {q : Queued}
    (hl : s.lanes[l] = .idle) (hw : Waits side q s) (k : SlotIx) : Books strict (startJob l side q k s) := by
  obtain ⟨j, htag, rfl, hlanes, hslots, hctx, hm, hf, -⟩ := startJob_tables l side q k s
  have ha := waits_active hw
  generalize Machine.startJob l side q j.slot s = u at *
  have ha : s.contexts[j.tag].state = .active := by
    simp only [htag]
    exact ha
  have hcount : CountersAgree (s.contexts[j.tag].take (idleDeadline s) (frameIndex q.frame) 1) := by
    have := (h.counters j.tag).take ha (n := 1) (f := 0) rfl (fun hd => by
      simp only [htag] at hd ⊢
      exact waits_unmarked hw hd)
      (idleDeadline s) s.contexts[j.tag].counts
    obtain ⟨hfin, hcnt⟩ := take_counts (idleDeadline s) (frameIndex q.frame) 1 s.contexts[j.tag]
    rwa [Nat.add_zero, ← hfin, ← hcnt] at this
  refine ⟨h.balanced.started hl hlanes hslots hctx (take_jobs ..), fun i => ?_, fun x => ?_, fun x i t ht => ?_⟩
  · rw [hctx, set_get]
    split_ifs
    · exact hcount
    · exact h.counters i
  · obtain ⟨h1, h2, h3, h4⟩ := h.listed x
    have hfor (i : LaneIx) : heldFor u.lanes[i] = heldFor s.lanes[i] := by
      rw [hlanes, set_get]
      split_ifs with hi
      · subst hi
        rw [hl]
        rfl
      · rfl
    exact ⟨hm ▸ h1, hf ▸ h2, fun i => by rw [hm, hfor]; exact h3 i, fun i => by rw [hf, hfor]; exact h4 i⟩
  · have hread : heldRead s.lanes[i] = some t := by
      rw [hlanes, set_get] at ht
      split_ifs at ht
      · cases ht
      · exact ht
    rw [hctx, set_get]
    split_ifs
    · exact take_running _ _ _ ha
    · exact h.held x i t hread

/-- What a delivery does to the tables (R75). -/
theorem deliver_tables (t : Tag) (r : ReadStatus) (f : Frame) (s : State) :
    (deliver t r f s).contexts = s.contexts.set t
      { s.contexts[t] with finished := s.contexts[t].finished + 1, counts := s.contexts[t].counts.raise r } ∧
    (deliver t r f s).lanes = s.lanes ∧ (deliver t r f s).slots = s.slots ∧ (deliver t r f s).moqHold = s.moqHold ∧
    (deliver t r f s).fsqHold = s.fsqHold ∧ (deliver t r f s).du = s.du ∧ (deliver t r f s).ranges = s.ranges ∧
    (deliver t r f s).limits = s.limits := by
  cases r <;> exact ⟨rfl, rfl, rfl, rfl, rfl, rfl, rfl, rfl⟩

/-- A bypass sector is taken and delivered at once (R74, R75). -/
theorem Books.bypassed {strict : Prop} {s : State} (h : Books strict s) {t : Tag} {i : Nat}
    (ha : s.contexts[t].state = .active) (hmark : i < 256 ∧ s.contexts[t].marks.getLsbD i = false) (d : Option Time)
    (r : ReadStatus) (f : Frame) :
    Books strict (deliver t r f (Machine.putContext t (s.contexts[t].take d i 0) s)) := by
  obtain ⟨hctx, hlanes, hslots, hm, hf, -⟩ := deliver_tables t r f (Machine.putContext t (s.contexts[t].take d i 0) s)
  have hput := h.putContext
    { s.contexts[t].take d i 0 with
      finished := s.contexts[t].finished + 1, counts := s.contexts[t].counts.raise r }
    (take_jobs ..) ((h.counters t).take ha (n := 0) (f := 1) rfl (fun _ => hmark) _ _)
    fun _ => Or.inl (take_running _ _ _ ha)
  refine hput.congr hlanes hm hf (fun k => by rw [hslots]; rfl) (hctx.trans ?_)
  obtain ⟨hfin, hcnt⟩ := take_counts d i 0 s.contexts[t]
  rw [putContext_contexts, set_get_self, set_set_self, hfin, hcnt, putContext_contexts]

theorem Books.takeBypass {strict : Prop} {s : State} (h : Books strict s) {q : Queued} (hb : belongsToRead q s = true)
    (r : ReadStatus) : Books strict (takeBypass q r s) := by
  refine Books.finishTransfer ?_ _
  have hc := popIntake_core .media s
  have h := h.core hc
  have ha : (popIntake .media s).contexts[frameTag q.frame].state = .active := by
    rw [popIntake_contexts]
    exact belongsToRead_active hb
  have hmark : frameIndex q.frame < 256 ∧
      (popIntake .media s).contexts[frameTag q.frame].marks.getLsbD (frameIndex q.frame) = false := by
    rw [popIntake_contexts]
    exact belongsToRead_unmarked hb
  generalize popIntake .media s = u at h ha hmark ⊢
  exact h.bypassed ha hmark _ _ _

theorem Books.enterOutput {strict : Prop} {s : State} (h : Books strict s) {l : LaneIx} {j : Job}
    (hl : s.lanes[l].job = some j) (f : Frame) (target : SectorQueue) : Books strict (enterOutput l j f target s) := by
  unfold Machine.enterOutput
  refine Books.leaveEnding (Books.finishTransfer ?_ _) _
  cases target with
  | moq =>
    refine h.leaves hl (Or.inl rfl) s.contexts[j.tag].counts rfl rfl rfl rfl ?_
    dsimp only
    rw [emit]
    dsimp only
    rw [putContext_contexts, releaseLane_contexts, set_set_self, set_get_self]
  | fsq =>
    obtain ⟨hctx, hlanes, hslots, hm, hq, -⟩ := deliver_tables j.tag (outputStatus f) f (releaseLane l j s)
    refine h.leaves hl (Or.inl rfl) (s.contexts[j.tag].counts.raise (outputStatus f)) hlanes hm hq hslots ?_
    refine hctx.trans ?_
    rw [releaseLane_contexts, set_set_self, set_get_self]

theorem Listed.holds {s : State} (h : Listed s) {l : LaneIx} {j : Job} (hl : s.lanes[l] = .running j) (f : Frame)
    (target : SectorQueue) : Listed (holdOutput l j f target s) := by
  obtain ⟨h1, h2, h3, h4⟩ := h
  have hm : l ∉ s.moqHold := by
    rw [h3, hl]
    nofun
  have hf : l ∉ s.fsqHold := by
    rw [h4, hl]
    nofun
  cases target with
  | moq =>
    refine ⟨(List.nodup_append.mpr ⟨h1, List.nodup_singleton l, ?_⟩), h2, fun i => ?_, fun i => ?_⟩
    · rintro a ha _ hb rfl
      exact hm (List.mem_singleton.mp hb ▸ ha)
    · change i ∈ s.moqHold ++ [l] ↔ heldFor (s.lanes.set l _)[i] = _
      rw [List.mem_append, List.mem_singleton, h3, set_get]
      by_cases hi : l = i
      · simp [hi, heldFor]
      · simp [-Fin.getElem_fin, hi, Ne.symm hi]
    · change i ∈ s.fsqHold ↔ heldFor (s.lanes.set l _)[i] = _
      rw [h4, set_get]
      by_cases hi : l = i
      · subst hi
        simp [-Fin.getElem_fin, heldFor, hl]
      · simp [-Fin.getElem_fin, hi]
  | fsq =>
    refine ⟨h1, (List.nodup_append.mpr ⟨h2, List.nodup_singleton l, ?_⟩), fun i => ?_, fun i => ?_⟩
    · rintro a ha _ hb rfl
      exact hf (List.mem_singleton.mp hb ▸ ha)
    · change i ∈ s.moqHold ↔ heldFor (s.lanes.set l _)[i] = _
      rw [h3, set_get]
      by_cases hi : l = i
      · subst hi
        simp [-Fin.getElem_fin, heldFor, hl]
      · simp [-Fin.getElem_fin, hi]
    · change i ∈ s.fsqHold ++ [l] ↔ heldFor (s.lanes.set l _)[i] = _
      rw [List.mem_append, List.mem_singleton, h4, set_get]
      by_cases hi : l = i
      · simp [hi, heldFor]
      · simp [-Fin.getElem_fin, hi, Ne.symm hi]

/-- A lane that finds no room holds its output: no account changes (R107). -/
theorem Books.holds {strict : Prop} {s : State} (h : Books strict s) {l : LaneIx} {j : Job} (hl : s.lanes[l] = .running j)
    (ho : outputOffered j s = true) (f : Frame) : Books strict (holdOutput l j f (targetQueue j) s) := by
  have hlanes : (holdOutput l j f (targetQueue j) s).lanes = s.lanes.set l (.holding j f (targetQueue j)) := by
    unfold holdOutput
    cases targetQueue j <;> rfl
  have htables : (holdOutput l j f (targetQueue j) s).contexts = s.contexts ∧
      (holdOutput l j f (targetQueue j) s).slots = s.slots := by
    unfold holdOutput
    cases targetQueue j <;> exact ⟨rfl, rfl⟩
  have hcount (p : Job → Bool) : jobsInFlight p (holdOutput l j f (targetQueue j) s) = jobsInFlight p s := by
    have := jobsInFlight_set p hlanes
    rw [hl, Lane.weight_job (x := .running j) rfl, Lane.weight_job (x := .holding j f (targetQueue j)) rfl] at this
    omega
  refine ⟨⟨fun k => ?_, fun t => ?_⟩, fun t => ?_, fun x => (h.listed x).holds hl f _, fun x i t ht => ?_⟩
  · rw [htables.2, hcount]
    exact h.balanced.pins k
  · rw [htables.1, hcount]
    exact h.balanced.jobs t
  · rw [htables.1]
    exact h.counters t
  · rw [htables.1]
    rw [hlanes, set_get] at ht
    split_ifs at ht
    · have hread : targetQueue j = .fsq ∧ j.tag = t := by
        cases hq : targetQueue j <;> rw [hq] at ht
        · cases ht
        · exact ⟨rfl, Option.some.inj ht⟩
      obtain ⟨hq, rfl⟩ := hread
      have hd : ¬ j.direction = .write := fun hd => by
        rw [targetQueue, hd] at hq
        cases hq
      simpa [-Fin.getElem_fin, outputOffered, hd] using ho
    · exact h.held x i t ht

theorem Books.completeJob {strict : Prop} {s : State} (h : Books strict s) {l : LaneIx} {j : Job}
    (hl : s.lanes[l] = .running j) : Books strict (completeJob l j s) := by
  have hjob : s.lanes[l].job = some j := by rw [hl]; rfl
  unfold Machine.completeJob offerOutput
  split_ifs with ho
  · exact h.enterOutput hjob ..
  · exact h.holds hl ho _
  · refine h.discardOutput hjob ?_
    simp only [outputOffered, Bool.or_eq_true, not_or] at ho
    simpa [-Fin.getElem_fin] using ho.1

theorem countersAgree_opened (f : Frame) (d : Option Time) (e : Option Ending) :
    CountersAgree { openedContext f with state := .active, deadline := d } ∧
      CountersAgree { openedContext f with state := .reporting, ending := e, deadline := none } := by
  have hb : 1 ≤ frameCount f ∧ frameCount f ≤ 256 := by
    unfold frameCount
    have := f.header.countLess1.isLt
    omega
  have hm : markCount 0 = 0 := by
    unfold markCount
    simp
  refine ⟨⟨⟨hb.1, hb.2, Nat.zero_le _, le_refl _⟩, fun _ => hm, nofun, fun _ => ⟨rfl, hb.1⟩, nofun, nofun, nofun⟩,
    ⟨hb.1, hb.2, Nat.zero_le _, le_refl _⟩, fun _ => hm, nofun, nofun, nofun, nofun, fun _ => rfl⟩

/-- A record that is written and then reports (R67, R81). -/
theorem enterReporting_putContext (t : Tag) (c : Context) (s : State) :
    enterReporting t (putContext t c s) =
      leaveDrain t { putContext t { c with state := .reporting, deadline := none } s with
        rpq := s.rpq ++ [completionFrame t { c with state := .reporting, deadline := none }] } := by
  unfold enterReporting putContext
  dsimp only
  rw [set_get_self, set_set_self]

theorem Books.takeOpen {strict : Prop} {s : State} (h : Books strict s) {q : Queued}
    (hf : s.contexts[frameTag q.frame].state = .free) : Books strict (takeOpen q s) := by
  have hj : s.contexts[frameTag q.frame].jobs = 0 := by
    obtain ⟨-, -, hfree, -⟩ := h.counters (frameTag q.frame)
    rw [hfree hf]
    rfl
  have hidle : s.contexts[frameTag q.frame].state.running = true → False := fun hr => by
    rw [hf] at hr
    cases hr
  unfold Machine.takeOpen
  dsimp only
  split
  · exact h.putContext _ hj.symm (countersAgree_opened _ _ none).1 fun hr => (hidle hr).elim
  · next e _ =>
    have hput := h.putContext { openedContext q.frame with state := .reporting, ending := some e, deadline := none } hj.symm
      (countersAgree_opened _ none _).2 fun hr => (hidle hr).elim
    rw [enterReporting_putContext]
    refine Books.leaveDrain ?_ _
    exact hput.congr rfl rfl rfl (fun _ => rfl) rfl

/-! ### The law -/

theorem Books.reset {strict : Prop} {s : State} (hl : s.lanes = State.reset.lanes) (hs : s.slots = State.reset.slots)
    (hc : s.contexts = State.reset.contexts) (hm : s.moqHold = []) (hf : s.fsqHold = []) : Books strict s := by
  have hlane (l : LaneIx) : s.lanes[l] = .idle := by
    rw [hl]
    simp [State.reset]
  have hctx (t : Tag) : s.contexts[t] = Context.free := by
    rw [hc]
    simp [State.reset]
  have hnone (p : Job → Bool) : jobsInFlight p s = 0 := by
    rw [jobsInFlight_eq]
    simp only [hlane, Lane.weight_idle, Finset.sum_const_zero]
  refine ⟨⟨fun k => ?_, fun t => ?_⟩, fun t => ?_, fun _ => ⟨by rw [hm]; exact List.nodup_nil, by rw [hf]; exact List.nodup_nil, fun l => ?_, fun l => ?_⟩,
    fun _ l t ht => ?_⟩
  · rw [hnone, hs]
    simp [State.reset, SlotRecord.reset]
  · rw [hnone, hctx]
    rfl
  · rw [hctx]
    exact countersAgree_free
  · rw [hm, hlane]
    simp [heldFor]
  · rw [hf, hlane]
    simp [heldFor]
  · rw [hlane] at ht
    cases ht

theorem Books.turn {strict : Prop} {s t : State} (hturn : Turn s t) (h : Books strict s) : Books strict t := by
  cases hturn with
  | port hp => exact h.core hp.core
  | opens q _ hf => exact h.takeOpen hf
  | ends t e fail => exact h.endTransfer t e fail
  | bypasses q r _ _ hb => exact h.takeBypass hb r
  | starts l side q k _ hl hw => exact h.startJob hl hw k
  | completes l j _ hl => exact h.completeJob hl
  | handsOff l j f q _ hh =>
    obtain ⟨-, -, q', hl⟩ := handOffLane_some hh
    exact h.enterOutput (by rw [hl]; rfl) f q
  | frontLost => exact h.frontLoss
  | mediaLost => exact h.mediaLoss
  | reportSent _ hs =>
    unfold frontSent
    rw [hs]
    dsimp only
    have hpop : Books strict { s with front := s.front.sent s.rpq.head?, rpq := s.rpq.tail } :=
      h.congr rfl rfl rfl (fun _ => rfl) rfl
    split
    · unfold reportLeaves
      split_ifs with hk hr
      · obtain ⟨-, -, -, -, -, -, hrep⟩ := hpop.counters (frameTag _)
        exact hpop.putContext _ (hrep hr).symm countersAgree_free fun _ => Or.inr rfl
      · exact hpop
      · exact hpop.congr rfl rfl rfl (fun _ => rfl) rfl
    · exact hpop
  | answers r data =>
    exact h.congr (answer_lanes ..) (answer_moqHold ..) (answer_fsqHold ..) (fun k => by rw [answer_slots]) (answer_contexts ..)
  | directive | defines | disables | locks | limits | wraps => exact h.congr rfl rfl rfl (fun _ => rfl) rfl
  | resets p =>
    unfold resetEngineBody
    refine Books.reset ?_ ?_ ?_ ?_ ?_
    · exact answer_lanes ..
    · exact answer_slots ..
    · exact answer_contexts ..
    · exact answer_moqHold ..
    · exact answer_fsqHold ..
  | powers b => exact Books.reset rfl rfl rfl rfl rfl
  | fills k task => exact h.congr rfl rfl rfl (fun i => fillingSlot_pins k i s) rfl
  | fillFails k r =>
    exact h.congr (answer_lanes ..) (answer_moqHold ..) (answer_fsqHold ..) (fun i => answer_pins _ _ k i s) (answer_contexts ..)
  | fillEnds k dk tk g data =>
    refine h.congr (answer_lanes ..) (answer_moqHold ..) (answer_fsqHold ..) (fun i => ?_) (answer_contexts ..)
    rw [answer_slots, readySlot, putSlot_slots, set_get]
    split_ifs with hi <;> [rw [hi]; rfl]
  | drains k goal timer _ hb =>
    have hbegun : Books strict (drainBegun k goal timer s) := by
      refine h.congr rfl rfl rfl (fun i => ?_) rfl
      change (s.slots.set k _)[i].pins = _
      rw [set_get]
      split_ifs with hi <;> [rw [hi]; rfl]
    split_ifs
    · exact hbegun.completeDrain k goal
    · exact hbegun
  | timerStops =>
    unfold stopDrainTimer
    split <;> [exact h.congr rfl rfl rfl (fun _ => rfl) rfl; exact h]

end Sys2Proof.Machine

namespace Sys2Proof.Machine

/-- Settles O8: every turn keeps the books, with the hold lists and without. -/
theorem laneAccountsBalance : Obligations.LaneAccountsBalance :=
  ⟨stepKeeps_of_turn fun s t hturn h => (laneAccounts_iff t).mpr (((laneAccounts_iff s).mp h).turn hturn),
    stepKeeps_of_turn fun s t hturn h => (holdListsAgree_iff t).mpr (((holdListsAgree_iff s).mp h).turn hturn)⟩

end Sys2Proof.Machine
end

section
/-! PROOFS. The Range Table read: the lookup, the ranges that a span touches and the drain set of a slot (R24, R25, R55). -/

namespace Sys2Proof.Machine

/-! ### The lookup -/

theorem holds_iff (r : RangeRecord) (l : Nat) :
    r.holds l = true ↔ r.enabled = true ∧ r.start ≤ l ∧ l < r.start + r.length := by
  simp only [RangeRecord.holds, Bool.and_eq_true, decide_eq_true_eq, and_assoc]
  rfl

/-- The lookup depends on which ranges 1 to 15 hold the LBA (R24). -/
theorem lookup_congr {rt rt' : Vector RangeRecord 16} {l : Nat}
    (h : ∀ k : RangeIx, k ≠ 0 → rt'[k].holds l = rt[k].holds l) : lookup rt' l = lookup rt l := by
  unfold lookup
  congr 2
  funext k
  by_cases hk : k = 0
  · simp [hk]
  · rw [h k hk]

/-- A range 1 to 15 that holds the LBA is the one that the lookup returns, since no two meet (R23, R24). -/
theorem lookup_of_holds {s : State} (h : RangesDisjoint s) {k : RangeIx} (hk : k ≠ 0) {l : Nat}
    (hl : s.ranges[k].holds l = true) : lookup s.ranges l = k := by
  unfold lookup
  cases hf : rangeIndices.find? (fun (k : RangeIx) => k != 0 && s.ranges[k].holds l) with
  | none =>
    have := List.find?_eq_none.mp hf k (List.mem_finRange k)
    simp [-Fin.getElem_fin, hk, hl] at this
  | some j =>
    have hj := List.find?_some hf
    simp only [Bool.and_eq_true, bne_iff_ne, ne_eq] at hj
    obtain ⟨hj0, hj⟩ := hj
    by_contra hne
    have hjk : j ≠ k := fun e => hne (by simp [e])
    obtain ⟨hek, hk1, hk2⟩ := (holds_iff _ _).mp hl
    obtain ⟨hej, hj1, hj2⟩ := (holds_iff _ _).mp hj
    exact ((h.2.2 k hk).1 hek).2.2 j hj0 hjk hej ⟨by omega, by omega, by omega, by omega⟩

theorem lookup_eq_iff {s : State} (h : RangesDisjoint s) {k : RangeIx} (hk : k ≠ 0) (l : Nat) :
    lookup s.ranges l = k ↔ s.ranges[k].holds l = true :=
  ⟨fun hl => holds_of_lookup_eq hl hk, lookup_of_holds h hk⟩

theorem lookup_eq_zero_iff {s : State} (h : RangesDisjoint s) (l : Nat) :
    lookup s.ranges l = 0 ↔ ∀ k : RangeIx, k ≠ 0 → ¬ s.ranges[k].holds l = true := by
  constructor
  · intro h0 k hk hl
    rw [lookup_of_holds h hk hl] at h0
    exact hk h0
  · intro hnone
    by_contra hne
    exact hnone _ hne (holds_of_lookup_eq rfl hne)

/-- The range that the lookup returns is enabled (R22, R24). -/
theorem lookup_enabled {s : State} (h : RangesDisjoint s) (l : Nat) :
    s.ranges[lookup s.ranges l].enabled = true := by
  by_cases h0 : lookup s.ranges l = 0
  · simp only [h0]
    exact h.2.1.1
  · exact ((holds_iff _ _).mp (holds_of_lookup_eq rfl h0)).1

/-! ### The ranges that a span touches -/

theorem firsts_nodup (l : List RangeIx) : (firsts l).Nodup := by
  induction l with
  | nil => exact List.nodup_nil
  | cons k ks ih => exact List.nodup_cons.mpr ⟨by simp, ih.filter _⟩

/-- Of two elements, the one that occurs first stands first. -/
theorem firsts_ordered (l : List RangeIx) :
    (firsts l).Pairwise (fun a b => ∃ n : Nat, l[n]? = some a ∧ ∀ m ≤ n, l[m]? ≠ some b) := by
  induction l with
  | nil => exact List.Pairwise.nil
  | cons k ks ih =>
    refine List.pairwise_cons.mpr ⟨fun b hb => ⟨0, rfl, fun m hm => ?_⟩, ?_⟩
    · obtain rfl := Nat.le_zero.mp hm
      have hbk : b ≠ k := by simpa using (List.mem_filter.mp hb).2
      simpa using hbk.symm
    · refine (ih.filter (· != k)).imp_of_mem fun {a b} _ hb ⟨n, ha, hn⟩ => ⟨n + 1, by simpa using ha, fun m hm => ?_⟩
      have hbk : b ≠ k := by simpa using (List.mem_filter.mp hb).2
      cases m with
      | zero => simpa using hbk.symm
      | succ m => simpa using hn m (by omega)

theorem touched_getElem? (rt : Vector RangeRecord 16) (start count n : Nat) :
    ((List.range count).map (fun i => lookup rt (start + i)))[n]? =
      if n < count then some (lookup rt (start + n)) else none := by
  split_ifs with h
  · simp [h]
  · simp [h]

theorem touched_ordered (rt : Vector RangeRecord 16) (start count : Nat) :
    (touched rt start count).Pairwise (fun a b =>
      ∃ i < count, lookup rt (start + i) = a ∧ ∀ i' ≤ i, lookup rt (start + i') ≠ b) := by
  refine (firsts_ordered _).imp fun {a b} ⟨n, ha, hn⟩ => ?_
  rw [touched_getElem?] at ha
  split_ifs at ha with hcount
  refine ⟨n, hcount, Option.some.inj ha, fun m hm e => ?_⟩
  refine hn m hm ?_
  rw [touched_getElem?, if_pos (by omega), e]

/-! ### The drain set -/

theorem mem_drainSetOf {k : SlotIx} {s : State} {t : Tag} :
    t ∈ drainSetOf k s ↔ s.contexts[t].state.isOpen = true ∧
      ∃ i < s.contexts[t].count, s.ranges[lookup s.ranges (s.contexts[t].start + i)].enabled = true ∧
        s.ranges[lookup s.ranges (s.contexts[t].start + i)].slot = some k := by
  simp only [drainSetOf, List.mem_filter, allTags, List.mem_finRange, true_and, Bool.and_eq_true, spanUses_iff]

theorem drainSetOf_nodup (k : SlotIx) (s : State) : (drainSetOf k s).Nodup := (List.nodup_finRange 64).filter _

end Sys2Proof.Machine

namespace Sys2Proof.Machine

/-- Settles O22: a range that holds the LBA is the lookup's, by the law that no two meet. -/
theorem lookupFindsTheOneRange : Obligations.LookupFindsTheOneRange := by
  intro s l h
  refine ⟨fun k hk => (lookup_eq_iff h hk l).trans (holds_iff _ _), (lookup_eq_zero_iff h l).trans ?_⟩
  simp only [holds_iff, not_and]

/-- Settles O23, by induction on the list of the LBAs' ranges. -/
theorem touchedRangesAndDrainSets : Obligations.TouchedRangesAndDrainSets :=
  ⟨fun rt start count => ⟨mem_touched rt start count, firsts_nodup _, touched_ordered rt start count⟩,
    fun k s => ⟨drainSetOf_nodup k s, fun _ => mem_drainSetOf⟩⟩

end Sys2Proof.Machine
end

section
/-! PROOFS. The slots follow the Directive Unit, and the keys in use are held (R39 to R43, R56, R104). -/

namespace Sys2Proof.Machine

/-! ### The law, with a tag that is leaving its drain set -/

/-- The slots and the Directive Unit agree (`SlotsAgree`), but that the tag `but`, if given, may stand in a drain set without an
open context: it is about to leave it (R56). -/
structure SlotsTell (but : Option Tag) (s : State) : Prop where
  filling : ∀ k : SlotIx, s.slots[k].state = .filling ↔ filledSlot s = some k
  draining : ∀ k : SlotIx, s.slots[k].state = .draining ↔ drainedSlot s = some k
  zero : ∀ k : SlotIx, s.slots[k].state = .empty ∨ s.slots[k].state = .filling →
    s.slots[k].dataKey = 0 ∧ s.slots[k].tweakKey = 0
  set : ∀ k : SlotIx, s.slots[k].state = .draining ↔ s.slots[k].drainSet ≠ []
  once : ∀ k : SlotIx, s.slots[k].drainSet.Nodup
  opened : ∀ k : SlotIx, ∀ t ∈ s.slots[k].drainSet, some t ≠ but → s.contexts[t].state.isOpen = true

theorem slotsAgree_iff (s : State) : SlotsAgree s ↔ SlotsTell none s :=
  ⟨fun h => ⟨fun k => (h k).1, fun k => (h k).2.1, fun k => (h k).2.2.1, fun k => (h k).2.2.2.1, fun k => (h k).2.2.2.2.1,
      fun k t ht _ => (h k).2.2.2.2.2 t ht⟩,
    fun h k => ⟨h.filling k, h.draining k, h.zero k, h.set k, h.once k, fun t ht => h.opened k t ht nofun⟩⟩

/-- The slot that the range of a span's LBA names (R24). -/
def spanSlot (s : State) (t : Tag) (i : Nat) : Option SlotIx :=
  s.ranges[lookup s.ranges (s.contexts[t].start + i)].slot

/-- The ranges of an open context's span name slots that hold keys for it. -/
def SpansHeld (s : State) : Prop :=
  ∀ t : Tag, s.contexts[t].state.isOpen = true → ∀ i < s.contexts[t].count, ∃ k : SlotIx,
    spanSlot s t i = some k ∧ (s.slots[k].state = .ready ∨ (s.slots[k].state = .draining ∧ t ∈ s.slots[k].drainSet))

/-- A lane job's key came from a slot that the span of its context uses. -/
def JobsUse (s : State) : Prop :=
  ∀ l : LaneIx, ∀ j ∈ s.lanes[l].job, ∃ i < s.contexts[j.tag].count, spanSlot s j.tag i = some j.slot

/-- The slots and the unit agree, and, where `strict` holds, the keys in use are held. -/
structure Keys (strict : Prop) (but : Option Tag) (s : State) : Prop where
  tell : SlotsTell but s
  balanced : strict → Balanced s
  spans : strict → SpansHeld s
  jobs : strict → JobsUse s

theorem keysHeld_iff (s : State) : KeysHeld s ↔ RangesDisjoint s ∧ Books False s ∧ Keys True none s := by
  rw [← laneAccounts_iff]
  constructor
  · rintro ⟨hr, hl, hs, hspan, hjobs⟩
    exact ⟨hr, hl, (slotsAgree_iff s).mp hs, fun _ => ⟨hl.1, hl.2.1⟩, fun _ => hspan, fun _ => hjobs⟩
  · rintro ⟨hr, hl, hk⟩
    exact ⟨hr, hl, (slotsAgree_iff s).mpr hk.tell, hk.spans trivial, hk.jobs trivial⟩

theorem Keys.slotsAgree_iff (s : State) : SlotsAgree s ↔ Keys False none s :=
  (Machine.slotsAgree_iff s).trans ⟨fun h => ⟨h, False.elim, False.elim, False.elim⟩, fun h => h.tell⟩

theorem slotsTell_congr {but : Option Tag} {s t : State} (h : SlotsTell but s) (hs : t.slots = s.slots)
    (hf : filledSlot t = filledSlot s) (hd : drainedSlot t = drainedSlot s)
    (ho : ∀ i : Tag, s.contexts[i].state.isOpen = true → t.contexts[i].state.isOpen = true) : SlotsTell but t where
  filling := by rw [hs, hf]; exact h.filling
  draining := by rw [hs, hd]; exact h.draining
  zero := by rw [hs]; exact h.zero
  set := by rw [hs]; exact h.set
  once := by rw [hs]; exact h.once
  opened := fun k i hi hb => ho i (h.opened k i (by rw [← hs]; exact hi) hb)

theorem spanSlot_congr (s t : State) (hr : t.ranges = s.ranges) {i : Tag} (hs : t.contexts[i].start = s.contexts[i].start)
    (n : Nat) : spanSlot t i n = spanSlot s i n := by
  unfold spanSlot
  simp only [hr, hs]

/-- The slots, the lanes, the contexts and the ranges are as before, and the unit fills and drains the same. -/
theorem Keys.congr {strict : Prop} {but : Option Tag} {s t : State} (h : Keys strict but s) (hc : t.contexts = s.contexts)
    (hs : t.slots = s.slots) (hl : t.lanes = s.lanes) (hr : t.ranges = s.ranges) (hf : filledSlot t = filledSlot s)
    (hd : drainedSlot t = drainedSlot s) : Keys strict but t where
  tell := slotsTell_congr h.tell hs hf hd fun i hi => by rw [hc]; exact hi
  balanced := fun x => (h.balanced x).congr hl (fun k => by rw [hs]) fun i => by rw [hc]
  spans := fun x i ho n hn => by
    rw [hc] at ho hn
    rw [spanSlot_congr s _ hr (by rw [hc]), hs]
    exact h.spans x i ho n hn
  jobs := fun x l j hj => by
    rw [hl] at hj
    rw [hc]
    obtain ⟨n, hn, hslot⟩ := h.jobs x l j hj
    exact ⟨n, hn, (spanSlot_congr s _ hr (by rw [hc]) n).trans hslot⟩

theorem filledSlot_congr {s t : State} (h : t.du = s.du) : filledSlot t = filledSlot s ∧ drainedSlot t = drainedSlot s := by
  unfold filledSlot drainedSlot
  rw [h]
  exact ⟨rfl, rfl⟩

theorem Keys.sameUnit {strict : Prop} {but : Option Tag} {s t : State} (h : Keys strict but s) (hc : t.contexts = s.contexts)
    (hs : t.slots = s.slots) (hl : t.lanes = s.lanes) (hr : t.ranges = s.ranges) (hd : t.du = s.du) : Keys strict but t :=
  h.congr hc hs hl hr (filledSlot_congr hd).1 (filledSlot_congr hd).2

theorem Keys.core {strict : Prop} {but : Option Tag} {s t : State} (h : Keys strict but s) (c : SameCore s t) :
    Keys strict but t :=
  h.sameUnit c.contexts c.slots c.lanes c.ranges c.du

/-- A context that holds no lane job changes its record. -/
theorem Balanced.no_job {s : State} (h : Balanced s) {t : Tag} (hj : s.contexts[t].jobs = 0) {l : LaneIx} {j : Job}
    (hl : s.lanes[l].job = some j) : t ≠ j.tag := by
  rintro rfl
  have := h.job_pos hl
  omega

/-- A context changes but stays open or not, with its span and its jobs in flight. -/
theorem Keys.putContext {strict : Prop} {but : Option Tag} {s : State} (h : Keys strict but s) {t : Tag} (c : Context)
    (ho : c.state.isOpen = s.contexts[t].state.isOpen) (hs : c.start = s.contexts[t].start)
    (hn : c.count = s.contexts[t].count) (hj : c.jobs = s.contexts[t].jobs) : Keys strict but (putContext t c s) := by
  have hopen (i : Tag) : (Machine.putContext t c s).contexts[i].state.isOpen = s.contexts[i].state.isOpen := by
    rw [putContext_contexts, set_get]
    split_ifs with hi <;> [(rw [← hi]; exact ho); rfl]
  have hstart (i : Tag) : (Machine.putContext t c s).contexts[i].start = s.contexts[i].start := by
    rw [putContext_contexts, set_get]
    split_ifs with hi <;> [(rw [← hi]; exact hs); rfl]
  have hcount (i : Tag) : (Machine.putContext t c s).contexts[i].count = s.contexts[i].count := by
    rw [putContext_contexts, set_get]
    split_ifs with hi <;> [(rw [← hi]; exact hn); rfl]
  have hjobs (i : Tag) : (Machine.putContext t c s).contexts[i].jobs = s.contexts[i].jobs := by
    rw [putContext_contexts, set_get]
    split_ifs with hi <;> [(rw [← hi]; exact hj); rfl]
  have hspan (i : Tag) (n : Nat) : spanSlot (Machine.putContext t c s) i n = spanSlot s i n :=
    spanSlot_congr s (Machine.putContext t c s) rfl (hstart i) n
  refine ⟨slotsTell_congr h.tell rfl rfl rfl fun i hi => (hopen i).trans hi, fun x => (h.balanced x).congr rfl (fun _ => rfl) hjobs,
    fun x i hi n hlt => ?_, fun x l j hl => ?_⟩
  · rw [hopen] at hi
    rw [hcount] at hlt
    rw [hspan]
    exact h.spans x i hi n hlt
  · obtain ⟨n, hlt, hslot⟩ := h.jobs x l j hl
    exact ⟨n, by rw [hcount]; exact hlt, (hspan j.tag n).trans hslot⟩

/-- A context is closed: it is about to leave its drain set. It keeps its span, or it has no job in flight. -/
theorem Keys.closes {strict : Prop} {s : State} (h : Keys strict none s) {t : Tag} (c : Context)
    (ho : c.state.isOpen = false) (hj : strict → c.jobs = s.contexts[t].jobs)
    (hs : strict → c.start = s.contexts[t].start ∧ c.count = s.contexts[t].count ∨ s.contexts[t].jobs = 0) :
    Keys strict (some t) (Machine.putContext t c s) := by
  have hother {i : Tag} (hi : t ≠ i) : (Machine.putContext t c s).contexts[i] = s.contexts[i] := by
    rw [putContext_contexts, set_get_ne _ _ hi]
  have hself : (Machine.putContext t c s).contexts[t] = c := by rw [putContext_contexts, set_get_self]
  have hopen {i : Tag} (hi : (Machine.putContext t c s).contexts[i].state.isOpen = true) : t ≠ i := by
    rintro rfl
    rw [hself, ho] at hi
    cases hi
  refine ⟨⟨h.tell.filling, h.tell.draining, h.tell.zero, h.tell.set, h.tell.once, fun k i hi hb => ?_⟩,
    fun x => (h.balanced x).congr rfl (fun _ => rfl) fun i => ?_, fun x i hi n hlt => ?_, fun x l j hl => ?_⟩
  · rw [hother fun e => hb (by rw [e])]
    exact h.tell.opened k i hi nofun
  · by_cases hi : t = i
    · rw [← hi, hself, hj x]
    · rw [hother hi]
  · have hne := hopen hi
    rw [hother hne] at hi hlt
    rw [spanSlot_congr s (Machine.putContext t c s) rfl (by rw [hother hne])]
    exact h.spans x i hi n hlt
  · obtain ⟨n, hlt, hslot⟩ := h.jobs x l j hl
    by_cases hi : t = j.tag
    · obtain ⟨hstart, hcount⟩ := (hs x).resolve_right fun h0 => (h.balanced x).no_job h0 hl hi
      have hself' : (Machine.putContext t c s).contexts[j.tag] = c := by
        rw [putContext_contexts, set_get, if_pos hi]
      have hst : s.contexts[t].start = s.contexts[j.tag].start ∧ s.contexts[t].count = s.contexts[j.tag].count := by
        simp only [hi, and_self]
      exact ⟨n, by rw [hself', hcount, hst.2]; exact hlt,
        (spanSlot_congr s (Machine.putContext t c s) rfl (by rw [hself', hstart, hst.1]) n).trans hslot⟩
    · exact ⟨n, by rw [hother hi]; exact hlt, (spanSlot_congr s (Machine.putContext t c s) rfl (by rw [hother hi]) n).trans hslot⟩

/-! ### A slot loses its keys, or its drain set a tag -/

/-- No open context's span uses a slot. -/
def Unused (k : SlotIx) (s : State) : Prop :=
  ∀ t : Tag, s.contexts[t].state.isOpen = true → ∀ i < s.contexts[t].count, spanSlot s t i ≠ some k

/-- The only slot that the unit may fill or drain is `k`; that slot loses its keys and is EMPTY with an IDLE unit, or
FILLING for the unit (R48, R54, R58, R59). -/
theorem Keys.bared {strict : Prop} {but : Option Tag} {s u : State} (h : Keys strict but s) {k : SlotIx} {y : SlotState}
    (hone : ∀ i : SlotIx, i ≠ k → filledSlot s ≠ some i ∧ drainedSlot s ≠ some i) (hno : strict → Unused k s)
    (hc : u.contexts = s.contexts) (hl : u.lanes = s.lanes) (hr : u.ranges = s.ranges)
    (hs : u.slots = s.slots.set k { s.slots[k] with state := y, dataKey := 0, tweakKey := 0, drainSet := [] })
    (hy : y = .empty ∧ filledSlot u = none ∨ y = .filling ∧ filledSlot u = some k) (hd : drainedSlot u = none) :
    Keys strict none u := by
  have hself : u.slots[k] = { s.slots[k] with state := y, dataKey := 0, tweakKey := 0, drainSet := [] } := by
    rw [hs, set_get_self]
  have hother {i : SlotIx} (hi : i ≠ k) : u.slots[i] = s.slots[i] := by rw [hs, set_get_ne _ _ hi.symm]
  have hy' : y = .empty ∨ y = .filling := hy.imp And.left And.left
  have hnd : y ≠ .draining := by rcases hy' with rfl | rfl <;> nofun
  have hidle {i : SlotIx} (hi : i ≠ k) : s.slots[i].state ≠ .draining := fun e => (hone i hi).2 ((h.tell.draining i).mp e)
  have hempty (i : SlotIx) : u.slots[i].drainSet = [] := by
    by_cases hi : i = k
    · rw [hi, hself]
    · rw [hother hi]
      by_contra hne
      exact hidle hi ((h.tell.set i).mpr hne)
  have hstate (i : SlotIx) : u.slots[i].state ≠ .draining := by
    by_cases hi : i = k
    · rw [hi, hself]
      exact hnd
    · rw [hother hi]
      exact hidle hi
  refine ⟨⟨fun i => ?_, fun i => ?_, fun i hi => ?_, fun i => ?_, fun i => ?_, fun i t ht => ?_⟩, fun x => ?_, fun x i ho n hn => ?_,
    fun x l j hj => ?_⟩
  · by_cases hi : i = k
    · subst hi
      rw [hself]
      rcases hy with ⟨rfl, hf⟩ | ⟨rfl, hf⟩ <;> simp [hf]
    · rw [hother hi]
      refine iff_of_false (fun e => (hone i hi).1 ((h.tell.filling i).mp e)) fun e => ?_
      rcases hy with ⟨-, hf⟩ | ⟨-, hf⟩ <;> rw [hf] at e
      · cases e
      · exact hi (Option.some.inj e).symm
  · exact iff_of_false (hstate i) (by rw [hd]; nofun)
  · by_cases hik : i = k
    · subst hik
      rw [hself]
      exact ⟨rfl, rfl⟩
    · rw [hother hik] at hi ⊢
      exact h.tell.zero i hi
  · exact iff_of_false (hstate i) (by rw [hempty]; simp)
  · rw [hempty]
    exact List.nodup_nil
  · rw [hempty] at ht
    exact (List.not_mem_nil ht).elim
  · refine (h.balanced x).congr hl (fun i => ?_) fun i => by rw [hc]
    by_cases hi : i = k
    · subst hi
      rw [hself]
    · rw [hother hi]
  · rw [hc] at ho hn
    obtain ⟨i', hslot, hheld⟩ := h.spans x i ho n hn
    have hne : i' ≠ k := fun e => hno x i ho n hn (e ▸ hslot)
    refine ⟨i', (spanSlot_congr s _ hr (by rw [hc]) n).trans hslot, ?_⟩
    rw [hother hne]
    exact hheld
  · rw [hl] at hj
    obtain ⟨n, hn, hslot⟩ := h.jobs x l j hj
    exact ⟨n, by rw [hc]; exact hn, (spanSlot_congr s _ hr (by rw [hc]) n).trans hslot⟩

theorem answer_du (r : Result) (data : Bytes) (s : State) : (answer r data s).du = none := by
  rw [answer_frame]

theorem answer_ranges (r : Result) (data : Bytes) (s : State) : (answer r data s).ranges = s.ranges := by
  rw [answer_frame]

theorem completeDrain_ranges (k : SlotIx) (goal : DrainGoal) (s : State) : (completeDrain k goal s).ranges = s.ranges := by
  unfold completeDrain
  split
  · exact answer_ranges ..
  · split_ifs <;> [exact answer_ranges ..; rfl]

theorem leaveDrain_ranges (t : Tag) (s : State) : (leaveDrain t s).ranges = s.ranges := (leaveDrain_calm t s).ranges

/-- A complete drain leaves the slot without keys: EMPTY with an IDLE unit, or FILLING for the unit (R58, R59). -/
theorem completeDrain_slot (k : SlotIx) (goal : DrainGoal) (s : State) :
    ∃ y, (completeDrain k goal s).slots =
        s.slots.set k { s.slots[k] with state := y, dataKey := 0, tweakKey := 0, drainSet := [] } ∧
      (y = .empty ∧ filledSlot (completeDrain k goal s) = none ∨
        y = .filling ∧ filledSlot (completeDrain k goal s) = some k) ∧ drainedSlot (completeDrain k goal s) = none := by
  have hanswer (r : Result) : (answer r [] (emptySlot k s)).slots =
        s.slots.set k { s.slots[k] with state := .empty, dataKey := 0, tweakKey := 0, drainSet := [] } ∧
      filledSlot (answer r [] (emptySlot k s)) = none ∧ drainedSlot (answer r [] (emptySlot k s)) = none :=
    ⟨answer_slots .., by unfold filledSlot; rw [answer_du], drainedSlot_answer ..⟩
  unfold completeDrain
  split
  · exact ⟨.empty, (hanswer .ok).1, Or.inl ⟨rfl, (hanswer .ok).2.1⟩, (hanswer .ok).2.2⟩
  · split_ifs
    · exact ⟨.empty, (hanswer .randomFailed).1, Or.inl ⟨rfl, (hanswer .randomFailed).2.1⟩, (hanswer .randomFailed).2.2⟩
    · exact ⟨.filling, rfl, Or.inr ⟨rfl, rfl⟩, rfl⟩

theorem drainedSlot_some {s : State} {k : SlotIx} {goal : DrainGoal} {timer : Option Time} {silent : Bool}
    (h : s.du = some ⟨.draining k goal timer, silent⟩) : drainedSlot s = some k ∧ filledSlot s = none := by
  unfold drainedSlot filledSlot
  rw [h]
  exact ⟨rfl, rfl⟩

/-- A drain that is complete while the unit drains the slot, or has just begun to, and no open context uses it. -/
theorem Keys.completeDrain {strict : Prop} {but : Option Tag} {s : State} (h : Keys strict but s) {k : SlotIx}
    (hone : ∀ i : SlotIx, i ≠ k → filledSlot s ≠ some i ∧ drainedSlot s ≠ some i) (hno : strict → Unused k s)
    (goal : DrainGoal) (r : SlotRecord) (hr : ∃ y d, r = { s.slots[k] with state := y, drainSet := d }) {u : State}
    (hslots : u.slots = s.slots.set k r) (hc : u.contexts = s.contexts) (hl : u.lanes = s.lanes)
    (hranges : u.ranges = s.ranges) : Keys strict none (completeDrain k goal u) := by
  obtain ⟨y, hs, hy, hd⟩ := completeDrain_slot k goal u
  refine h.bared hone hno ((completeDrain_contexts ..).trans hc) ((completeDrain_lanes ..).trans hl)
    ((completeDrain_ranges ..).trans hranges) (hs.trans ?_) hy hd
  obtain ⟨y', d, rfl⟩ := hr
  rw [hslots, set_set_self, set_get_self]

/-- The closed context leaves its drain set, and the drain is complete when the set is empty (R56). -/
theorem Keys.leaveDrain {strict : Prop} {s : State} {t : Tag} (h : Keys strict (some t) s)
    (ht : s.contexts[t].state.isOpen = false) : Keys strict none (leaveDrain t s) := by
  have hstay (hnot : ∀ k : SlotIx, t ∉ s.slots[k].drainSet) : Keys strict none s :=
    ⟨⟨h.tell.filling, h.tell.draining, h.tell.zero, h.tell.set, h.tell.once, fun k i hi _ =>
      h.tell.opened k i hi fun e => hnot k (Option.some.inj e ▸ hi)⟩, h.balanced, h.spans, h.jobs⟩
  have hidle {k : SlotIx} (hk : drainedSlot s ≠ some k) : s.slots[k].drainSet = [] := by
    by_contra hne
    exact hk ((h.tell.draining k).mp ((h.tell.set k).mpr hne))
  unfold Machine.leaveDrain
  split
  · next k goal timer silent hdu =>
    obtain ⟨hdrain, hfill⟩ := drainedSlot_some hdu
    have hone : ∀ i : SlotIx, i ≠ k → filledSlot s ≠ some i ∧ drainedSlot s ≠ some i := fun i hi =>
      ⟨by rw [hfill]; nofun, by rw [hdrain]; exact fun e => hi (Option.some.inj e).symm⟩
    have hstate : s.slots[k].state = .draining := (h.tell.draining k).mpr hdrain
    have hin (x : strict) {i : Tag} (hi : s.contexts[i].state.isOpen = true) {n : Nat} (hn : n < s.contexts[i].count)
        (hslot : spanSlot s i n = some k) : i ∈ s.slots[k].drainSet.filter (· != t) := by
      obtain ⟨k', hk', hheld⟩ := h.spans x i hi n hn
      obtain rfl := Option.some.inj (hk'.symm.trans hslot)
      refine List.mem_filter.mpr ⟨(hheld.resolve_left fun e => ?_).2, ?_⟩
      · rw [hstate] at e
        cases e
      · have hne : i ≠ t := by
          rintro rfl
          rw [ht] at hi
          cases hi
        simpa using hne
    dsimp only
    split_ifs with hmem hrest
    · refine h.completeDrain hone (fun x i hi n hn hslot => ?_) goal _ ⟨_, _, rfl⟩ rfl rfl rfl rfl
      have := hin x hi hn hslot
      rw [List.isEmpty_iff.mp hrest] at this
      exact List.not_mem_nil this
    · have hself : (putSlot k { s.slots[k] with drainSet := s.slots[k].drainSet.filter (· != t) } s).slots[k] =
          { s.slots[k] with drainSet := s.slots[k].drainSet.filter (· != t) } := by rw [putSlot_slots, set_get_self]
      have hother {i : SlotIx} (hi : i ≠ k) :
          (putSlot k { s.slots[k] with drainSet := s.slots[k].drainSet.filter (· != t) } s).slots[i] = s.slots[i] := by
        rw [putSlot_slots, set_get_ne _ _ hi.symm]
      refine ⟨⟨fun i => ?_, fun i => ?_, fun i => ?_, fun i => ?_, fun i => ?_, fun i x hx _ => ?_⟩, fun x => ?_,
        fun x i hi n hn => ?_, h.jobs⟩
      · by_cases hi : i = k
        · subst hi
          rw [hself]
          exact h.tell.filling i
        · rw [hother hi]
          exact h.tell.filling i
      · by_cases hi : i = k
        · subst hi
          rw [hself]
          exact h.tell.draining i
        · rw [hother hi]
          exact h.tell.draining i
      · by_cases hi : i = k
        · subst hi
          rw [hself]
          exact h.tell.zero i
        · rw [hother hi]
          exact h.tell.zero i
      · by_cases hi : i = k
        · subst hi
          rw [hself]
          exact iff_of_true hstate fun e => hrest (List.isEmpty_iff.mpr e)
        · rw [hother hi]
          exact h.tell.set i
      · by_cases hi : i = k
        · subst hi
          rw [hself]
          exact (h.tell.once i).filter _
        · rw [hother hi]
          exact h.tell.once i
      · by_cases hi : i = k
        · subst hi
          rw [hself] at hx
          obtain ⟨hx, hne⟩ := List.mem_filter.mp hx
          exact h.tell.opened i x hx fun e => by simp [Option.some.inj e] at hne
        · rw [hother hi, hidle (hone i hi).2] at hx
          exact (List.not_mem_nil hx).elim
      · refine (h.balanced x).congr rfl (fun i => ?_) fun _ => rfl
        by_cases hi : i = k
        · subst hi
          rw [hself]
        · rw [hother hi]
      · obtain ⟨k', hslot, hheld⟩ := h.spans x i hi n hn
        refine ⟨k', hslot, ?_⟩
        by_cases hk : k' = k
        · subst hk
          rw [hself]
          exact Or.inr ⟨hstate, hin x hi hn hslot⟩
        · rw [hother hk]
          exact hheld
    · refine hstay fun i hi => ?_
      by_cases hik : i = k
      · subst hik
        exact hmem (by simpa using hi)
      · rw [hidle (hone i hik).2] at hi
        exact List.not_mem_nil hi
  · next hnd =>
    have hnone : ∀ k : SlotIx, drainedSlot s ≠ some k := fun k e => by
      unfold drainedSlot at e
      split at e
      · next hdu => exact hnd _ _ _ _ hdu
      · cases e
    exact hstay fun k hk => by
      rw [hidle (hnone k)] at hk
      exact List.not_mem_nil hk

/-! ### The life of a context -/

theorem Keys.enterReporting {strict : Prop} {s : State} (h : Keys strict none s) (t : Tag) :
    Keys strict none (enterReporting t s) := by
  have hput := h.closes { s.contexts[t] with state := .reporting, deadline := none } rfl (fun _ => rfl)
    fun _ => Or.inl ⟨rfl, rfl⟩
  refine Keys.leaveDrain (hput.sameUnit rfl rfl rfl rfl rfl) ?_
  change (Machine.putContext t _ s).contexts[t].state.isOpen = false
  rw [putContext_contexts, set_get_self]
  rfl

theorem Keys.freeContext {strict : Prop} {s : State} (h : Keys strict none s) {t : Tag}
    (hj : strict → s.contexts[t].jobs = 0) : Keys strict none (freeContext t s) := by
  refine (h.closes Context.free rfl (fun x => (hj x).symm) fun x => Or.inr (hj x)).leaveDrain ?_
  rw [putContext_contexts, set_get_self]
  rfl

theorem Keys.leaveEnding {strict : Prop} {s : State} (h : Keys strict none s) (t : Tag) :
    Keys strict none (leaveEnding t s) := by
  rcases leaveEnding_cases t s with he | ⟨-, hj, he | he⟩ <;> rw [he]
  · exact h
  · exact h.freeContext fun _ => hj
  · exact h.enterReporting t

theorem Keys.finishTransfer {strict : Prop} {s : State} (h : Keys strict none s) (t : Tag) :
    Keys strict none (finishTransfer t s) := by
  unfold Machine.finishTransfer
  split_ifs
  · exact (h.putContext { s.contexts[t] with ending := some .done } rfl rfl rfl rfl).enterReporting t
  · exact h

/-- A lane is released: of the slots only a pin count changes, and of the contexts a count of jobs (R108, R109). -/
theorem Keys.released {strict : Prop} {s : State} (h : Keys strict none s) {l : LaneIx} {j : Job}
    (hl : s.lanes[l].job = some j) : Keys strict none (s.released l j) := by
  have hslot (k : SlotIx) := (released_slots l j s k).2
  have hctx (i : Tag) : (s.released l j).contexts[i].start = s.contexts[i].start ∧
      (s.released l j).contexts[i].count = s.contexts[i].count := by
    change (s.contexts.set j.tag _)[i].start = _ ∧ (s.contexts.set j.tag _)[i].count = _
    rw [set_get]
    split_ifs with hi <;> [(rw [← hi]; exact ⟨rfl, rfl⟩); exact ⟨rfl, rfl⟩]
  have hstate (i : Tag) := released_state l j s i
  have hspan (i : Tag) (n : Nat) : spanSlot (s.released l j) i n = spanSlot s i n :=
    spanSlot_congr s (s.released l j) rfl (hctx i).1 n
  refine ⟨⟨fun k => by rw [hslot]; exact h.tell.filling k, fun k => by rw [hslot]; exact h.tell.draining k,
    fun k => by rw [hslot]; exact h.tell.zero k, fun k => by rw [hslot]; exact h.tell.set k,
    fun k => by rw [hslot]; exact h.tell.once k, fun k i hi hb => ?_⟩, fun x => (h.balanced x).released hl, fun x i hi n hn => ?_,
    fun x i y hy => ?_⟩
  · rw [hslot] at hi
    rw [hstate]
    exact h.tell.opened k i hi hb
  · rw [hstate] at hi
    rw [(hctx i).2] at hn
    obtain ⟨k, hk, hheld⟩ := h.spans x i hi n hn
    refine ⟨k, (hspan i n).trans hk, ?_⟩
    rw [hslot]
    exact hheld
  · change y ∈ (s.lanes.set l .idle)[i].job at hy
    rw [set_get] at hy
    split_ifs at hy
    · cases hy
    · obtain ⟨n, hn, hk⟩ := h.jobs x i y hy
      exact ⟨n, by rw [(hctx y.tag).2]; exact hn, (hspan y.tag n).trans hk⟩

theorem Keys.discardOutput {strict : Prop} {s : State} (h : Keys strict none s) {l : LaneIx} {j : Job}
    (hl : s.lanes[l].job = some j) : Keys strict none (discardOutput l j s) :=
  (h.released hl).leaveEnding j.tag

theorem Keys.foldl {strict : Prop} {α : Type} {f : State → α → State} (hf : ∀ s a, Keys strict none s → Keys strict none (f s a))
    (l : List α) {s : State} (h : Keys strict none s) : Keys strict none (l.foldl f s) := by
  induction l generalizing s with
  | nil => exact h
  | cons a as ih => exact ih (hf s a h)

theorem Keys.discardHeldReads {strict : Prop} {s : State} (h : Keys strict none s) (t : Tag) :
    Keys strict none (discardHeldReads t s) := by
  refine Keys.foldl (fun s l h => ?_) _ h
  unfold discardHeldRead
  split
  · next hl =>
    split_ifs
    · exact h.discardOutput (by rw [hl]; rfl)
    · exact h
  · exact h

theorem Keys.enterEnding {strict : Prop} {s : State} (h : Keys strict none s) {t : Tag} (c : Context)
    (hr : s.contexts[t].state.running = true) (hs : c.start = s.contexts[t].start) (hn : c.count = s.contexts[t].count)
    (hj : c.jobs = s.contexts[t].jobs) : Keys strict none (enterEnding t c s) := by
  have hopen : ContextState.isOpen .ending = s.contexts[t].state.isOpen := by
    cases hx : s.contexts[t].state <;> rw [hx] at hr <;> trivial
  have hput := h.putContext { c with state := .ending, deadline := none } hopen hs hn hj
  unfold Machine.enterEnding
  exact ((hput.core (discardHeads_core t _)).discardHeldReads t).leaveEnding t

theorem Keys.endTransfer {strict : Prop} {s : State} (h : Keys strict none s) (t : Tag) (e : Ending) (fail : Option Nat) :
    Keys strict none (endTransfer t e fail s) := by
  unfold Machine.endTransfer
  split_ifs with hr
  · exact h.enterEnding _ hr rfl rfl rfl
  · exact h

/-! ### Link losses -/

theorem Keys.discardHeldWrite {strict : Prop} {s : State} (h : Keys strict none s) (l : LaneIx) :
    Keys strict none (discardHeldWrite l s) := by
  unfold Machine.discardHeldWrite
  split
  · next hl => exact h.discardOutput (by rw [hl]; rfl)
  · exact h

theorem Keys.mediaLoss {strict : Prop} {s : State} (h : Keys strict none s) : Keys strict none (mediaLoss s) := by
  have hempty : Keys strict none { mediaCut s with fiq := [] } := (h.core (mediaCut_core s)).sameUnit rfl rfl rfl rfl rfl
  have hends : Keys strict none (mediaEnds { mediaCut s with fiq := [] }) := by
    unfold mediaEnds
    exact Keys.foldl (fun s l h => h.discardHeldWrite l) _ (Keys.foldl (fun s t h => h.endTransfer t _ _) _ hempty)
  rw [mediaLoss_eq]
  generalize mediaEnds _ = e at hends ⊢
  exact hends.sameUnit rfl rfl rfl rfl rfl

theorem Keys.frontLossContext {strict : Prop} {s : State} (h : Keys strict none s) (t : Tag)
    (hrep : s.contexts[t].state = .reporting → strict → s.contexts[t].jobs = 0) : Keys strict none (frontLossContext t s) := by
  unfold Machine.frontLossContext
  dsimp only
  split
  · exact h
  · next hs => exact h.enterEnding _ (by rw [hs]; rfl) rfl rfl rfl
  · next hs => exact h.enterEnding _ (by rw [hs]; rfl) rfl rfl rfl
  · exact (h.putContext { s.contexts[t] with suppressed := true } rfl rfl rfl rfl).leaveEnding t
  · next hs => exact h.freeContext (hrep hs)

theorem frontLossContext_contexts_ne {t i : Tag} (h : t ≠ i) (s : State) :
    (frontLossContext t s).contexts[i] = s.contexts[i] := by
  unfold frontLossContext
  dsimp only
  split
  · rfl
  · exact enterEnding_contexts_ne h ..
  · exact enterEnding_contexts_ne h ..
  · rw [leaveEnding_contexts_ne h, putContext_contexts, set_get_ne _ _ h]
  · rw [freeContext_contexts, set_get_ne _ _ h]

theorem frontCut_unit (s : State) : filledSlot (frontCut s) = filledSlot s ∧ drainedSlot (frontCut s) = drainedSlot s := by
  unfold filledSlot drainedSlot frontCut
  rcases s.du with _ | ⟨_ | _ | _ | _, _⟩ <;> exact ⟨rfl, rfl⟩

/-- The reporting contexts of a list have no job in flight until the front link loss comes to them. -/
theorem Keys.frontLossContexts {strict : Prop} {l : List Tag} (hd : l.Nodup) {s : State} (h : Keys strict none s)
    (hrep : ∀ t ∈ l, s.contexts[t].state = .reporting → strict → s.contexts[t].jobs = 0) :
    Keys strict none (l.foldl (fun s t => Machine.frontLossContext t s) s) := by
  induction l generalizing s with
  | nil => exact h
  | cons t l ih =>
    obtain ⟨ht, hd⟩ := List.nodup_cons.mp hd
    refine ih hd (h.frontLossContext t (hrep t List.mem_cons_self)) fun i hi => ?_
    have hti : t ≠ i := fun e => ht (by rwa [e])
    rw [frontLossContext_contexts_ne hti]
    exact hrep i (List.mem_cons_of_mem _ hi)

theorem Keys.frontLoss {strict : Prop} {s : State} (h : Keys strict none s)
    (hrep : ∀ t : Tag, s.contexts[t].state = .reporting → strict → s.contexts[t].jobs = 0) : Keys strict none (frontLoss s) := by
  rw [frontLoss_eq]
  have hcut : Keys strict none (frontCut s) := h.congr rfl rfl rfl rfl (frontCut_unit s).1 (frontCut_unit s).2
  exact hcut.frontLossContexts (List.nodup_finRange 64) fun t _ => hrep t

end Sys2Proof.Machine
end

section
/-! PROOFS. The keys in use are held by every turn (R39 to R43, R56, R104), and what follows for pins and job starts. -/

namespace Sys2Proof.Machine

/-! ### Sectors -/

theorem take_span (d : Option Time) (i n : Nat) (c : Context) :
    (c.take d i n).start = c.start ∧ (c.take d i n).count = c.count := by
  unfold Context.take
  dsimp only
  split_ifs <;> exact ⟨rfl, rfl⟩

theorem take_open (d : Option Time) (i n : Nat) {c : Context} (h : c.state = .active) :
    (c.take d i n).state.isOpen = c.state.isOpen := by
  rcases take_state d i n c with e | e <;> rw [e]
  rw [h]
  rfl

theorem Keys.deliver {strict : Prop} {s : State} (h : Keys strict none s) (t : Tag) (r : ReadStatus) (f : Frame) :
    Keys strict none (deliver t r f s) := by
  obtain ⟨hctx, hlanes, hslots, -, -, hdu, hranges, -⟩ := deliver_tables t r f s
  exact (h.putContext { s.contexts[t] with finished := s.contexts[t].finished + 1, counts := s.contexts[t].counts.raise r }
    rfl rfl rfl rfl).sameUnit hctx hslots hlanes hranges hdu

theorem Keys.takeBypass {strict : Prop} {s : State} (h : Keys strict none s) {q : Queued} (hb : belongsToRead q s = true)
    (r : ReadStatus) : Keys strict none (takeBypass q r s) := by
  have ha : (popIntake .media s).contexts[frameTag q.frame].state = .active := by
    rw [popIntake_contexts]
    exact belongsToRead_active hb
  obtain ⟨hstart, hcount⟩ := take_span (idleDeadline (popIntake .media s)) (frameIndex q.frame) 0
    (popIntake .media s).contexts[frameTag q.frame]
  have hput := (h.core (popIntake_core .media s)).putContext _ (take_open (idleDeadline (popIntake .media s)) (frameIndex q.frame) 0 ha)
    hstart hcount (take_jobs ..)
  exact (hput.deliver ..).finishTransfer _

/-- The index of a candidate for a lane lies in its transfer (R70, R73). -/
theorem waits_index {side : PortId} {q : Queued} {s : State} (h : Waits side q s)
    (hc : CountersAgree s.contexts[frameTag q.frame]) : frameIndex q.frame < s.contexts[frameTag q.frame].count := by
  have ha := waits_active h
  rcases h with ⟨-, -, h⟩ | ⟨-, -, -, h⟩
  · simp only [frontCandidate, Bool.and_eq_true, beq_iff_eq] at h
    have hnone := h.2
    unfold writeSectorFault at hnone
    dsimp only at hnone
    split_ifs at hnone with h1 h2 h3 <;> cases hnone
    obtain ⟨hidx, -⟩ := not_or.mp h1
    obtain ⟨-, -, -, hact, -⟩ := hc
    have := hact ha
    omega
  · simp only [belongsToRead, Bool.and_eq_true, decide_eq_true_eq] at h
    exact h.1.2

theorem Keys.startJob {strict : Prop} {s : State} (h : Keys strict none s) (hb : strict → Books False s) {l : LaneIx}
    {side : PortId} {q : Queued} {k : SlotIx} (hl : s.lanes[l] = .idle) (hw : Waits side q s)
    (hk : candidateSlot q s = some k) : Keys strict none (startJob l side q k s) := by
  obtain ⟨j, htag, rfl, hlanes, hslots, hctx, -, -, hdu, hranges, -⟩ := startJob_tables l side q k s
  have hbooks := fun x => (hb x).startJob hl hw j.slot
  have hact : s.contexts[j.tag].state = .active := by
    have := waits_active hw
    simp only [htag]
    exact this
  have hindex : strict → frameIndex q.frame < s.contexts[j.tag].count := fun x => by
    have := waits_index hw ((hb x).counters _)
    simp only [htag]
    exact this
  have hspans : spanSlot s j.tag (frameIndex q.frame) = some j.slot := by
    unfold spanSlot
    simp only [htag]
    exact hk
  generalize Machine.startJob l side q j.slot s = u at *
  have hopen (i : Tag) : u.contexts[i].state.isOpen = s.contexts[i].state.isOpen := by
    rw [hctx, set_get]
    split_ifs with hi <;> [(rw [← hi]; exact take_open _ _ _ hact); rfl]
  have hspan (i : Tag) : u.contexts[i].start = s.contexts[i].start ∧ u.contexts[i].count = s.contexts[i].count := by
    rw [hctx, set_get]
    split_ifs with hi <;> [(rw [← hi]; exact take_span ..); exact ⟨rfl, rfl⟩]
  have hslot (i : SlotIx) : ∃ n, u.slots[i] = { s.slots[i] with pins := n } := by
    rw [hslots, set_get]
    split_ifs with hi
    · exact ⟨_, by rw [← hi]⟩
    · exact ⟨s.slots[i].pins, rfl⟩
  have hunit := filledSlot_congr hdu
  refine ⟨⟨fun i => ?_, fun i => ?_, fun i => ?_, fun i => ?_, fun i => ?_, fun i t ht hbut => ?_⟩,
    fun x => (hbooks x).balanced, fun x i hi n hn => ?_, fun x i y hy => ?_⟩
  · obtain ⟨n, hn⟩ := hslot i
    rw [hn, hunit.1]
    exact h.tell.filling i
  · obtain ⟨n, hn⟩ := hslot i
    rw [hn, hunit.2]
    exact h.tell.draining i
  · obtain ⟨n, hn⟩ := hslot i
    rw [hn]
    exact h.tell.zero i
  · obtain ⟨n, hn⟩ := hslot i
    rw [hn]
    exact h.tell.set i
  · obtain ⟨n, hn⟩ := hslot i
    rw [hn]
    exact h.tell.once i
  · obtain ⟨n, hn⟩ := hslot i
    rw [hn] at ht
    rw [hopen]
    exact h.tell.opened i t ht hbut
  · rw [hopen] at hi
    rw [(hspan i).2] at hn
    obtain ⟨k, hk, hheld⟩ := h.spans x i hi n hn
    obtain ⟨m, hm⟩ := hslot k
    refine ⟨k, (spanSlot_congr s u hranges (hspan i).1 n).trans hk, ?_⟩
    rw [hm]
    exact hheld
  · rw [hlanes, set_get] at hy
    split_ifs at hy with hli
    · obtain rfl : j = y := Option.some.inj hy
      exact ⟨frameIndex q.frame, by rw [(hspan j.tag).2]; exact hindex x,
        (spanSlot_congr s u hranges (hspan j.tag).1 _).trans hspans⟩
    · obtain ⟨n, hn, hk⟩ := h.jobs x i y hy
      exact ⟨n, by rw [(hspan y.tag).2]; exact hn, (spanSlot_congr s u hranges (hspan y.tag).1 n).trans hk⟩

theorem Keys.enterOutput {strict : Prop} {s : State} (h : Keys strict none s) {l : LaneIx} {j : Job}
    (hl : s.lanes[l].job = some j) (f : Frame) (target : SectorQueue) : Keys strict none (enterOutput l j f target s) := by
  unfold Machine.enterOutput
  refine Keys.leaveEnding (Keys.finishTransfer ?_ _) _
  have hrel : Keys strict none (releaseLane l j s) := h.released hl
  cases target with
  | moq => exact (hrel.putContext
      { (releaseLane l j s).contexts[j.tag] with finished := (releaseLane l j s).contexts[j.tag].finished + 1 } rfl rfl rfl
        rfl).sameUnit rfl rfl rfl rfl rfl
  | fsq => exact hrel.deliver ..

theorem Keys.completeJob {strict : Prop} {s : State} (h : Keys strict none s) (hb : strict → Books False s) {l : LaneIx}
    {j : Job} (hl : s.lanes[l] = .running j) : Keys strict none (completeJob l j s) := by
  have hbooks := fun x => (hb x).completeJob hl
  have hjob : s.lanes[l].job = some j := by rw [hl]; rfl
  revert hbooks
  unfold Machine.completeJob offerOutput
  split_ifs
  · exact fun _ => h.enterOutput hjob ..
  · intro hbooks
    generalize outputFrame j s.contexts[j.tag] = f at hbooks ⊢
    have hlanes : (holdOutput l j f (targetQueue j) s).lanes = s.lanes.set l (.holding j f (targetQueue j)) := by
      unfold holdOutput
      cases targetQueue j <;> rfl
    have hrest : (holdOutput l j f (targetQueue j) s).contexts = s.contexts ∧
        (holdOutput l j f (targetQueue j) s).slots = s.slots ∧ (holdOutput l j f (targetQueue j) s).ranges = s.ranges ∧
        (holdOutput l j f (targetQueue j) s).du = s.du := by
      unfold holdOutput
      cases targetQueue j <;> exact ⟨rfl, rfl, rfl, rfl⟩
    obtain ⟨hc, hs, hr, hd⟩ := hrest
    generalize holdOutput l j f (targetQueue j) s = u at *
    obtain ⟨hf, hdr⟩ := filledSlot_congr hd
    refine ⟨slotsTell_congr h.tell hs hf hdr fun i hi => by rw [hc]; exact hi, fun x => (hbooks x).balanced,
      fun x i hi n hn => ?_, fun x i y hy => ?_⟩
    · rw [hc] at hi hn
      rw [spanSlot_congr s u hr (by rw [hc]), hs]
      exact h.spans x i hi n hn
    · have hy' : y ∈ s.lanes[i].job := by
        rw [hlanes, set_get] at hy
        split_ifs at hy with hli
        · rw [← hli, hjob]
          exact hy
        · exact hy
      obtain ⟨n, hn, hk⟩ := h.jobs x i y hy'
      exact ⟨n, by rw [hc]; exact hn, (spanSlot_congr s u hr (by rw [hc]) n).trans hk⟩
  · exact fun _ => h.discardOutput hjob

/-! ### A transfer opens -/

theorem openRefusal_none {q : Queued} {s : State} (h : openRefusal q s = none) :
    ∀ k ∈ touched s.ranges (frameLba q.frame) (frameCount q.frame),
      rangeCheck s.slots (frameDirection q.frame) s.ranges[k] = none := by
  unfold openRefusal at h
  dsimp only at h
  split_ifs at h
  exact List.findSome?_eq_none_iff.mp h

theorem rangeCheck_none {slots : Vector SlotRecord 16} {d : Direction} {r : RangeRecord} (h : rangeCheck slots d r = none) :
    ∃ k : SlotIx, r.slot = some k ∧ slots[k].state = .ready := by
  unfold rangeCheck at h
  split_ifs at h
  split at h
  · cases h
  · next k hk =>
    refine ⟨k, hk, ?_⟩
    split at h
    · cases h
    · cases h
    · cases h
    · assumption

/-- A context that is opened on ranges whose slots are READY has its keys held (R66). -/
theorem Keys.opens {strict : Prop} {s : State} (h : Keys strict none s) {t : Tag} (c : Context)
    (hj : strict → s.contexts[t].jobs = 0) (hc : c.jobs = 0)
    (hready : ∀ n < c.count, ∃ k : SlotIx, s.ranges[lookup s.ranges (c.start + n)].slot = some k ∧ s.slots[k].state = .ready)
    (ho : c.state.isOpen = true) : Keys strict none (Machine.putContext t c s) := by
  have hself : (Machine.putContext t c s).contexts[t] = c := by rw [putContext_contexts, set_get_self]
  have hother {i : Tag} (hi : t ≠ i) : (Machine.putContext t c s).contexts[i] = s.contexts[i] := by
    rw [putContext_contexts, set_get_ne _ _ hi]
  refine ⟨slotsTell_congr h.tell rfl rfl rfl fun i hi => ?_, fun x => (h.balanced x).congr rfl (fun _ => rfl) fun i => ?_,
    fun x i hi n hn => ?_, fun x l j hl => ?_⟩
  · by_cases hti : t = i
    · rw [← hti, hself]
      exact ho
    · rw [hother hti]
      exact hi
  · by_cases hti : t = i
    · rw [← hti, hself, hc, hj x]
    · rw [hother hti]
  · by_cases hti : t = i
    · subst hti
      rw [hself] at hn
      obtain ⟨k, hk, hr⟩ := hready n hn
      refine ⟨k, ?_, Or.inl hr⟩
      unfold spanSlot
      simp only [hself]
      exact hk
    · rw [hother hti] at hi hn
      obtain ⟨k, hk, hr⟩ := h.spans x i hi n hn
      exact ⟨k, (spanSlot_congr s (Machine.putContext t c s) rfl (by rw [hother hti]) n).trans hk, hr⟩
  · have hti := (h.balanced x).no_job (hj x) hl
    obtain ⟨n, hn, hk⟩ := h.jobs x l j hl
    exact ⟨n, by rw [hother hti]; exact hn,
      (spanSlot_congr s (Machine.putContext t c s) rfl (by rw [hother hti]) n).trans hk⟩

theorem Keys.takeOpen {strict : Prop} {s : State} (h : Keys strict none s) (hb : strict → Books False s) {q : Queued}
    (hf : s.contexts[frameTag q.frame].state = .free) : Keys strict none (takeOpen q s) := by
  have hj : strict → s.contexts[frameTag q.frame].jobs = 0 := fun x => by
    obtain ⟨-, -, hfree, -⟩ := (hb x).counters (frameTag q.frame)
    rw [hfree hf]
    rfl
  unfold Machine.takeOpen
  dsimp only
  split
  · next hnone =>
    refine h.opens { openedContext q.frame with state := .active, deadline := idleDeadline s } hj rfl (fun n hn => ?_) rfl
    exact rangeCheck_none (openRefusal_none hnone _ ((mem_touched ..).mpr ⟨n, hn, rfl⟩))
  · next e _ =>
    rw [enterReporting_putContext]
    have hput := h.closes { openedContext q.frame with state := .reporting, ending := some e, deadline := none } rfl
      (fun x => (hj x).symm) fun x => Or.inr (hj x)
    refine Keys.leaveDrain ?_ ?_
    · exact hput.sameUnit rfl rfl rfl rfl rfl
    · change (Machine.putContext (frameTag q.frame) _ s).contexts[frameTag q.frame].state.isOpen = false
      rw [putContext_contexts, set_get_self]
      rfl

/-! ### The Range Table changes -/

/-- The ranges change, but not those of an open transfer's span. -/
theorem Keys.ranges {strict : Prop} {s : State} (h : Keys strict none s) (rt : Vector RangeRecord 16)
    (hsame : strict → ∀ t : Tag, s.contexts[t].state.isOpen = true → ∀ n < s.contexts[t].count,
      rt[lookup rt (s.contexts[t].start + n)].slot = spanSlot s t n)
    (hopen : strict → ∀ l : LaneIx, ∀ j ∈ s.lanes[l].job, s.contexts[j.tag].state.isOpen = true) :
    Keys strict none { s with ranges := rt } :=
  ⟨slotsTell_congr h.tell rfl rfl rfl fun _ hi => hi, fun x => (h.balanced x).congr rfl (fun _ => rfl) fun _ => rfl,
    fun x t ho n hn => by
      obtain ⟨k, hk, hheld⟩ := h.spans x t ho n hn
      exact ⟨k, (hsame x t ho n hn).trans hk, hheld⟩,
    fun x l j hl => by
      obtain ⟨n, hn, hk⟩ := h.jobs x l j hl
      exact ⟨n, hn, (hsame x j.tag (hopen x l j hl) n hn).trans hk⟩⟩

/-- The context of a lane job is open (R63). -/
theorem Books.open_of_job {strict : Prop} {s : State} (h : Books strict s) {l : LaneIx} {j : Job}
    (hl : s.lanes[l].job = some j) : s.contexts[j.tag].state.isOpen = true := by
  have hpos := h.balanced.job_pos hl
  obtain ⟨-, -, hfree, -, -, -, hrep⟩ := h.counters j.tag
  cases hs : s.contexts[j.tag].state with
  | free =>
    rw [hfree hs] at hpos
    exact absurd hpos (by decide)
  | reporting =>
    rw [hrep hs] at hpos
    exact absurd hpos (by decide)
  | _ => rfl

theorem holds_locks {r r' : RangeRecord} (h : SameButLocks r r') (l : Nat) : r'.holds l = r.holds l ∧ r'.slot = r.slot := by
  have h' : r' = { r with readLock := r'.readLock, writeLock := r'.writeLock } := h
  exact ⟨(congrArg (RangeRecord.holds · l) h').trans rfl, (congrArg RangeRecord.slot h').trans rfl⟩

theorem slot_lookup_of_holds {rt rt' : Vector RangeRecord 16} {l : Nat} (hh : ∀ k : RangeIx, k ≠ 0 → rt'[k].holds l = rt[k].holds l)
    (hs : rt'[lookup rt l].slot = rt[lookup rt l].slot) : rt'[lookup rt' l].slot = rt[lookup rt l].slot := by
  simp only [lookup_congr hh]
  exact hs

theorem Keys.locks {strict : Prop} {s : State} (h : Keys strict none s) (hb : strict → Books False s)
    (rt : Vector RangeRecord 16) (hl : ∀ k : RangeIx, SameButLocks s.ranges[k] rt[k]) :
    Keys strict none { s with ranges := rt } :=
  h.ranges rt (fun _ _ _ _ _ => slot_lookup_of_holds (fun k _ => (holds_locks (hl k) _).1) (holds_locks (hl _) 0).2)
    fun x _ _ hj => (hb x).open_of_job hj

/-- An LBA of an open span lies outside an extent that no open span meets (R30). -/
theorem not_holds_of_not_meets {s : State} {r : RangeRecord} (h : r.enabled = true → ¬ SpanMeets r.start (r.start + r.length) s)
    {t : Tag} (ho : s.contexts[t].state.isOpen = true) {n : Nat} (hn : n < s.contexts[t].count) :
    r.holds (s.contexts[t].start + n) = false := by
  by_contra hne
  obtain ⟨he, h1, h2⟩ := (holds_iff _ _).mp (by simpa [-Fin.getElem_fin] using hne)
  exact h he ⟨t, ho, by omega, by omega, by omega, by omega⟩

theorem Keys.putRange {strict : Prop} {s : State} (h : Keys strict none s) (hb : strict → Books False s) {k : RangeIx}
    (hk : k ≠ 0) (r : RangeRecord) (hold : currentExtentBusy k s = false)
    (hnew : r.enabled = true → ¬ SpanMeets r.start (r.start + r.length) s) : Keys strict none (Machine.putRange k r s) := by
  have hcur : s.ranges[k].enabled = true → ¬ SpanMeets s.ranges[k].start (s.ranges[k].start + s.ranges[k].length) s :=
    fun he hm => by
      have := (currentExtentBusy_iff s k).mpr ⟨he, hm⟩
      rw [hold] at this
      cases this
  refine h.ranges (s.ranges.set k r) (fun x t ho n hn => ?_) fun x _ _ hj => (hb x).open_of_job hj
  have hno := not_holds_of_not_meets hcur ho hn
  refine slot_lookup_of_holds (fun i _ => ?_) ?_
  · rw [set_get]
    split_ifs with hi
    · rw [← hi, not_holds_of_not_meets hnew ho hn, hno]
    · rfl
  · rw [set_get_ne]
    intro he
    have := holds_of_lookup_eq he.symm hk
    rw [hno] at this
    cases this

theorem Keys.defines {strict : Prop} {s : State} (h : Keys strict none s) (hb : strict → Books False s) {k : RangeIx}
    {r : RangeRecord} (hr : defineRefusal k r s = none) : Keys strict none (Machine.putRange k (definedRecord k r) s) := by
  unfold defineRefusal at hr
  split_ifs at hr with hk hbusy h1 h2 h3 h4
  · subst hk
    refine h.ranges (s.ranges.set (0 : RangeIx) (definedRecord 0 r)) (fun x t ho n hn => ?_)
      fun x _ _ hj => (hb x).open_of_job hj
    refine slot_lookup_of_holds (fun i hi => by rw [set_get_ne _ _ hi.symm]) ?_
    rw [set_get_ne]
    intro he
    exact hbusy ((globalBusy_iff s).mpr ⟨t, ho, n, hn, he.symm⟩)
  · simp only [Bool.or_eq_true, not_or, Bool.not_eq_true] at h4
    refine h.putRange hb hk _ h4.1 fun _ hm => ?_
    rw [definedRecord, if_neg hk] at hm
    have := (extentBusy_iff s _ _).mpr hm
    rw [← RangeRecord.stop, h4.2] at this
    cases this

/-! ### Fills and drains begin and end -/

theorem idle_unit {s : State} (h : s.du = none) : filledSlot s = none ∧ drainedSlot s = none := by
  unfold filledSlot drainedSlot
  rw [h]
  exact ⟨rfl, rfl⟩

/-- A slot without keys is used by no open context. -/
theorem Keys.unused {strict : Prop} {but : Option Tag} {s : State} (h : Keys strict but s) {k : SlotIx}
    (hs : s.slots[k].state = .empty ∨ s.slots[k].state = .filling) : strict → Unused k s := by
  intro x t ho n hn hslot
  obtain ⟨k', hk', hheld⟩ := h.spans x t ho n hn
  obtain rfl := Option.some.inj (hk'.symm.trans hslot)
  rcases hheld with e | ⟨e, -⟩ <;> rw [e] at hs <;> rcases hs with hs | hs <;> cases hs

theorem filledSlot_alone {s : State} {k : SlotIx} (h : filledSlot s = some k) :
    drainedSlot s = none ∧ ∀ i : SlotIx, i ≠ k → filledSlot s ≠ some i ∧ drainedSlot s ≠ some i := by
  have hd : drainedSlot s = none := by
    unfold filledSlot at h
    unfold drainedSlot
    split at h
    · next hdu => rw [hdu]
    · next hdu => rw [hdu]
    · next hdu => rw [hdu]
    · cases h
  exact ⟨hd, fun i hi => ⟨by rw [h]; exact fun e => hi (Option.some.inj e).symm, by rw [hd]; nofun⟩⟩

theorem Keys.fillFails {strict : Prop} {s : State} (h : Keys strict none s) {k : SlotIx} (hk : filledSlot s = some k)
    (r : Result) : Keys strict none (failFilling k r s) :=
  h.bared (filledSlot_alone hk).2 (h.unused (Or.inr ((h.tell.filling k).mpr hk))) (answer_contexts ..) (answer_lanes ..)
    (answer_ranges ..) (answer_slots ..) (Or.inl ⟨rfl, (idle_unit (answer_du ..)).1⟩) (idle_unit (answer_du ..)).2

theorem Keys.fills {strict : Prop} {s : State} (h : Keys strict none s) (hb : Begins s) {k : SlotIx}
    (hs : s.slots[k].state = .empty) {task : Task} (ht : task.fills k) :
    Keys strict none { fillingSlot k s with du := some { task := task, silent := false } } := by
  obtain ⟨hf, hd⟩ := idle_unit hb.1
  have hunit : filledSlot { fillingSlot k s with du := some { task := task, silent := false } } = some k ∧
      drainedSlot { fillingSlot k s with du := some { task := task, silent := false } } = none := by
    cases task <;> simp only [Task.fills] at ht <;> subst ht <;> exact ⟨rfl, rfl⟩
  exact h.bared (fun i _ => ⟨by rw [hf]; nofun, by rw [hd]; nofun⟩) (h.unused (Or.inl hs)) rfl rfl rfl rfl
    (Or.inr ⟨rfl, hunit.1⟩) hunit.2

theorem Keys.fillEnds {strict : Prop} {s : State} (h : Keys strict none s) {k : SlotIx} (hk : filledSlot s = some k)
    (dk tk : Key) (g : Generation) (data : Bytes) : Keys strict none (answer .ok data (readySlot k dk tk g s)) := by
  have hslots : (answer .ok data (readySlot k dk tk g s)).slots =
      s.slots.set k { s.slots[k] with state := .ready, dataKey := dk, tweakKey := tk, generation := g } := answer_slots ..
  have hctx : (answer .ok data (readySlot k dk tk g s)).contexts = s.contexts := answer_contexts ..
  have hlanes : (answer .ok data (readySlot k dk tk g s)).lanes = s.lanes := answer_lanes ..
  have hranges : (answer .ok data (readySlot k dk tk g s)).ranges = s.ranges := answer_ranges ..
  obtain ⟨hf, hd⟩ := idle_unit (answer_du .ok data (readySlot k dk tk g s))
  obtain ⟨hds, hone⟩ := filledSlot_alone hk
  generalize answer .ok data (readySlot k dk tk g s) = u at *
  have hself : u.slots[k] = { s.slots[k] with state := .ready, dataKey := dk, tweakKey := tk, generation := g } := by
    rw [hslots, set_get_self]
  have hother {i : SlotIx} (hi : i ≠ k) : u.slots[i] = s.slots[i] := by rw [hslots, set_get_ne _ _ hi.symm]
  have hfilling : s.slots[k].state = .filling := (h.tell.filling k).mpr hk
  have hempty (i : SlotIx) : s.slots[i].drainSet = [] := by
    by_contra hne
    have := (h.tell.draining i).mp ((h.tell.set i).mpr hne)
    rw [hds] at this
    cases this
  have hsets (i : SlotIx) : u.slots[i].drainSet = [] := by
    by_cases hi : i = k
    · rw [hi, hself]
      exact hempty k
    · rw [hother hi]
      exact hempty i
  have hnd (i : SlotIx) : u.slots[i].state ≠ .draining := by
    by_cases hi : i = k
    · rw [hi, hself]
      nofun
    · rw [hother hi]
      exact fun e => (h.tell.set i).mp e (hempty i)
  refine ⟨⟨fun i => ?_, fun i => ?_, fun i hi => ?_, fun i => ?_, fun i => ?_, fun i t ht => ?_⟩, fun x => ?_, fun x i ho n hn => ?_,
    fun x l j hj => ?_⟩
  · rw [hf]
    refine iff_of_false ?_ nofun
    by_cases hi : i = k
    · rw [hi, hself]
      nofun
    · rw [hother hi]
      exact fun e => (hone i hi).1 ((h.tell.filling i).mp e)
  · exact iff_of_false (hnd i) (by rw [hd]; nofun)
  · by_cases hik : i = k
    · rw [hik, hself] at hi
      rcases hi with hi | hi <;> cases hi
    · rw [hother hik] at hi ⊢
      exact h.tell.zero i hi
  · exact iff_of_false (hnd i) (by rw [hsets]; simp)
  · rw [hsets]
    exact List.nodup_nil
  · rw [hsets] at ht
    exact (List.not_mem_nil ht).elim
  · refine (h.balanced x).congr hlanes (fun i => ?_) fun i => by rw [hctx]
    by_cases hi : i = k
    · rw [hi, hself]
    · rw [hother hi]
  · rw [hctx] at ho hn
    obtain ⟨i', hslot, hheld⟩ := h.spans x i ho n hn
    have hne : i' ≠ k := by
      rintro rfl
      rw [hfilling] at hheld
      rcases hheld with e | ⟨e, -⟩ <;> cases e
    refine ⟨i', (spanSlot_congr s u hranges (by rw [hctx]) n).trans hslot, ?_⟩
    rw [hother hne]
    exact hheld
  · rw [hlanes] at hj
    obtain ⟨n, hn, hslot⟩ := h.jobs x l j hj
    exact ⟨n, by rw [hctx]; exact hn, (spanSlot_congr s u hranges (by rw [hctx]) n).trans hslot⟩

/-- The drain set holds every open context whose span uses the slot (R55). -/
theorem mem_drainSetOf_of_spanSlot {s : State} (hr : RangesDisjoint s) {k : SlotIx} {t : Tag}
    (ho : s.contexts[t].state.isOpen = true) {n : Nat} (hn : n < s.contexts[t].count) (hslot : spanSlot s t n = some k) :
    t ∈ drainSetOf k s :=
  mem_drainSetOf.mpr ⟨ho, n, hn, lookup_enabled hr _, hslot⟩

theorem Keys.drains {strict : Prop} {s : State} (h : Keys strict none s) (hr : strict → RangesDisjoint s) (hb : Begins s)
    {k : SlotIx} (hs : s.slots[k].state = .ready) (goal : DrainGoal) (timer : Option Time) :
    Keys strict none (if drainSetOf k s = [] then Machine.completeDrain k goal (drainBegun k goal timer s)
      else drainBegun k goal timer s) := by
  obtain ⟨hf, hd⟩ := idle_unit hb.1
  split_ifs with hset
  · refine h.completeDrain (fun i _ => ⟨by rw [hf]; nofun, by rw [hd]; nofun⟩) (fun x t ho n hn hslot => ?_) goal _
      ⟨_, _, rfl⟩ rfl rfl rfl rfl
    have := mem_drainSetOf_of_spanSlot (hr x) ho hn hslot
    rw [hset] at this
    exact List.not_mem_nil this
  · have hself : (drainBegun k goal timer s).slots[k] = { s.slots[k] with state := .draining, drainSet := drainSetOf k s } := by
      change (s.slots.set k _)[k] = _
      rw [set_get_self]
    have hother {i : SlotIx} (hi : i ≠ k) : (drainBegun k goal timer s).slots[i] = s.slots[i] := by
      change (s.slots.set k _)[i] = _
      rw [set_get_ne _ _ hi.symm]
    have hfu : filledSlot (drainBegun k goal timer s) = none := rfl
    have hdu : drainedSlot (drainBegun k goal timer s) = some k := rfl
    have hidle (i : SlotIx) : s.slots[i].state ≠ .draining := fun e => by
      have := (h.tell.draining i).mp e
      rw [hd] at this
      cases this
    refine ⟨⟨fun i => ?_, fun i => ?_, fun i hi => ?_, fun i => ?_, fun i => ?_, fun i t ht _ => ?_⟩, fun x => ?_,
      fun x i ho n hn => ?_, h.jobs⟩
    · rw [hfu]
      refine iff_of_false ?_ nofun
      by_cases hi : i = k
      · rw [hi, hself]
        nofun
      · rw [hother hi]
        exact fun e => by
          have := (h.tell.filling i).mp e
          rw [hf] at this
          cases this
    · rw [hdu]
      by_cases hi : i = k
      · rw [hi, hself]
        simp
      · rw [hother hi]
        exact iff_of_false (hidle i) fun e => hi (Option.some.inj e).symm
    · by_cases hik : i = k
      · rw [hik, hself] at hi
        rcases hi with hi | hi <;> cases hi
      · rw [hother hik] at hi ⊢
        exact h.tell.zero i hi
    · by_cases hi : i = k
      · rw [hi, hself]
        exact iff_of_true rfl hset
      · rw [hother hi]
        exact h.tell.set i
    · by_cases hi : i = k
      · rw [hi, hself]
        exact drainSetOf_nodup k s
      · rw [hother hi]
        exact h.tell.once i
    · by_cases hi : i = k
      · rw [hi, hself] at ht
        exact (mem_drainSetOf.mp ht).1
      · rw [hother hi] at ht
        exact h.tell.opened i t ht nofun
    · refine (h.balanced x).congr rfl (fun i => ?_) fun _ => rfl
      by_cases hi : i = k
      · rw [hi, hself]
      · rw [hother hi]
    · obtain ⟨k', hslot, hheld⟩ := h.spans x i ho n hn
      refine ⟨k', hslot, ?_⟩
      by_cases hk : k' = k
      · subst hk
        rw [hself]
        exact Or.inr ⟨rfl, mem_drainSetOf_of_spanSlot (hr x) ho hn hslot⟩
      · rw [hother hk]
        exact hheld

/-! ### The law -/

theorem Keys.reset {strict : Prop} {s : State} (hl : s.lanes = State.reset.lanes) (hs : s.slots = State.reset.slots)
    (hc : s.contexts = State.reset.contexts) (hb : Books strict s) (hd : s.du = none) : Keys strict none s := by
  have hlane (l : LaneIx) : s.lanes[l] = .idle := by
    rw [hl]
    simp [State.reset]
  have hctx (t : Tag) : s.contexts[t] = Context.free := by
    rw [hc]
    simp [State.reset]
  have hslot (k : SlotIx) : s.slots[k] = SlotRecord.reset := by
    rw [hs]
    simp [State.reset]
  obtain ⟨hf, hdr⟩ := idle_unit hd
  refine ⟨⟨fun k => ?_, fun k => ?_, fun k _ => ?_, fun k => ?_, fun k => ?_, fun k t ht => ?_⟩, fun _ => hb.balanced,
    fun _ t ht => ?_, fun _ l j hj => ?_⟩
  · rw [hslot, hf]
    simp [SlotRecord.reset]
  · rw [hslot, hdr]
    simp [SlotRecord.reset]
  · rw [hslot]
    exact ⟨rfl, rfl⟩
  · rw [hslot]
    simp [SlotRecord.reset]
  · rw [hslot]
    exact List.nodup_nil
  · rw [hslot] at ht
    exact (List.not_mem_nil ht).elim
  · rw [hctx] at ht
    cases ht
  · rw [hlane] at hj
    cases hj

theorem Keys.reportSent {strict : Prop} {s : State} (h : Keys strict none s) (hb : strict → Books False s)
    (hs : s.front.sending = some .rpq) : Keys strict none (frontSent s) := by
  unfold frontSent
  rw [hs]
  dsimp only
  have hpop : Keys strict none { s with front := s.front.sent s.rpq.head?, rpq := s.rpq.tail } :=
    h.sameUnit rfl rfl rfl rfl rfl
  split
  · next f q hq =>
    unfold reportLeaves
    split_ifs with hk hr
    · have hj : strict → s.contexts[frameTag f].jobs = 0 := fun x => by
        obtain ⟨-, -, -, -, -, -, hrep⟩ := (hb x).counters (frameTag f)
        exact hrep hr
      have hput := hpop.closes Context.free rfl (fun x => (hj x).symm) (t := frameTag f) fun x => Or.inr (hj x)
      have hclosed : s.contexts[frameTag f].state.isOpen = false := by
        have hr' : s.contexts[frameTag f].state = .reporting := hr
        rw [hr']
        rfl
      have hout (k : SlotIx) : frameTag f ∉ s.slots[k].drainSet := fun hm => by
        have := h.tell.opened k _ hm nofun
        rw [hclosed] at this
        cases this
      obtain ⟨htell, hbal, hspan, hjobs⟩ := hput
      exact ⟨⟨htell.filling, htell.draining, htell.zero, htell.set, htell.once, fun k i hi _ =>
        htell.opened k i hi fun e => hout k (by rw [← Option.some.inj e]; exact hi)⟩, hbal, hspan, hjobs⟩
    · exact hpop
    · exact hpop.sameUnit rfl rfl rfl rfl rfl
  · exact hpop

theorem Keys.turn {strict : Prop} {s t : State} (hturn : Turn s t) (h : Keys strict none s) (hb : strict → Books False s)
    (hr : strict → RangesDisjoint s) : Keys strict none t := by
  have hrep : ∀ t : Tag, s.contexts[t].state = .reporting → strict → s.contexts[t].jobs = 0 := fun t hs x => by
    obtain ⟨-, -, -, -, -, -, hrep⟩ := (hb x).counters t
    exact hrep hs
  cases hturn with
  | port hp => exact h.core hp.core
  | opens q _ hf => exact h.takeOpen hb hf
  | ends t e fail => exact h.endTransfer t e fail
  | bypasses q r _ _ hbl => exact h.takeBypass hbl r
  | starts l side q k _ hl hw hk => exact h.startJob hb hl hw hk
  | completes l j _ hl => exact h.completeJob hb hl
  | handsOff l j f q _ hh =>
    obtain ⟨-, -, q', hl⟩ := handOffLane_some hh
    exact h.enterOutput (by rw [hl]; rfl) f q
  | frontLost => exact h.frontLoss hrep
  | mediaLost => exact h.mediaLoss
  | reportSent _ hs => exact h.reportSent hb hs
  | answers r data _ hdu =>
    exact h.sameUnit (answer_contexts ..) (answer_slots ..) (answer_lanes ..) (answer_ranges ..) ((answer_du ..).trans hdu.symm)
  | directive | limits => exact h.sameUnit rfl rfl rfl rfl rfl
  | defines k slot p _ hd => exact h.defines hb hd
  | disables k _ hk hd => exact h.putRange hb hk _ hd nofun
  | locks rt _ hl => exact h.locks hb rt hl
  | wraps k e g dk tk n silent _ hdu =>
    refine h.congr rfl rfl rfl rfl ?_ ?_
    · unfold filledSlot
      rw [hdu]
    · unfold drainedSlot
      rw [hdu]
  | resets p =>
    unfold resetEngineBody
    exact Keys.reset (answer_lanes ..) (answer_slots ..) (answer_contexts ..)
      (Books.reset (answer_lanes ..) (answer_slots ..) (answer_contexts ..) (answer_moqHold ..) (answer_fsqHold ..)) (answer_du ..)
  | powers b => exact Keys.reset rfl rfl rfl (Books.reset rfl rfl rfl rfl rfl) rfl
  | fills k task _ hbeg hs ht => exact h.fills hbeg hs ht
  | fillFails k r _ hk => exact h.fillFails hk r
  | fillEnds k dk tk g data _ hk => exact h.fillEnds hk dk tk g data
  | drains k goal timer _ hbeg hs => exact h.drains hr hbeg hs goal timer
  | timerStops =>
    unfold stopDrainTimer
    split
    · next hdu =>
      refine h.congr rfl rfl rfl rfl ?_ ?_
      · unfold filledSlot
        rw [hdu]
      · unfold drainedSlot
        rw [hdu]
    · exact h

theorem keysHeld_turn {s t : State} (hturn : Turn s t) (h : KeysHeld s) : KeysHeld t := by
  obtain ⟨hr, hb, hk⟩ := (keysHeld_iff s).mp h
  exact (keysHeld_iff t).mpr ⟨hturn.plain.ranges hr, hb.turn hturn, hk.turn hturn (fun _ => hb) fun _ => hr⟩

/-! ### Pins and job starts -/

/-- A slot with a pin is used by an open context with a job in flight (R41, R104). -/
theorem pinned {s : State} (h : KeysHeld s) {k : SlotIx} (hp : s.slots[k].pins ≠ 0) :
    ∃ t : Tag, s.contexts[t].state.isOpen = true ∧ s.contexts[t].jobs ≠ 0 ∧
      ∃ n < s.contexts[t].count, spanSlot s t n = some k := by
  obtain ⟨-, hb, hk⟩ := (keysHeld_iff s).mp h
  rw [hb.balanced.pins, jobsInFlight_eq] at hp
  obtain ⟨l, -, hl⟩ := Finset.exists_ne_zero_of_sum_ne_zero hp
  cases hjob : s.lanes[l].job with
  | none => simp [-Fin.getElem_fin, Lane.weight, hjob] at hl
  | some j =>
    rw [Lane.weight_job hjob] at hl
    obtain rfl : j.slot = k := by simpa using hl
    obtain ⟨n, hn, hslot⟩ := hk.jobs trivial l j hjob
    exact ⟨j.tag, hb.open_of_job hjob, Nat.one_le_iff_ne_zero.mp (hb.balanced.job_pos hjob), n, hn, hslot⟩

theorem pins_zero {s : State} (h : KeysHeld s) (k : SlotIx) :
    (s.slots[k].state = .empty ∨ s.slots[k].state = .filling → s.slots[k].pins = 0) ∧
    (s.slots[k].state = .ready → drainSetOf k s = [] → s.slots[k].pins = 0) ∧
    (s.slots[k].state = .draining → (∀ t ∈ s.slots[k].drainSet, s.contexts[t].jobs = 0) → s.slots[k].pins = 0) := by
  obtain ⟨hr, hb, hk⟩ := (keysHeld_iff s).mp h
  refine ⟨fun hs => ?_, fun hs hset => ?_, fun hs hjobs => ?_⟩ <;> by_contra hp <;>
    obtain ⟨t, ho, hj, n, hn, hslot⟩ := pinned h hp
  · exact hk.unused hs trivial t ho n hn hslot
  · have := mem_drainSetOf_of_spanSlot hr ho hn hslot
    rw [hset] at this
    exact List.not_mem_nil this
  · obtain ⟨k', hk', hheld⟩ := hk.spans trivial t ho n hn
    obtain rfl := Option.some.inj (hk'.symm.trans hslot)
    rw [hs] at hheld
    exact hj (hjobs t (hheld.resolve_left nofun).2)

/-- The range of a candidate for a lane names a slot that holds its key (R104). -/
theorem waits_slot {s : State} (h : KeysHeld s) {side : PortId} {q : Queued} (hw : Waits side q s) :
    ∃ k : SlotIx, candidateSlot q s = some k ∧ (s.slots[k].state = .ready ∨ s.slots[k].state = .draining) := by
  obtain ⟨-, hb, hk⟩ := (keysHeld_iff s).mp h
  have ho : s.contexts[frameTag q.frame].state.isOpen = true := by
    rw [waits_active hw]
    rfl
  obtain ⟨k, hslot, hheld⟩ := hk.spans trivial _ ho _ (waits_index hw (hb.counters _))
  exact ⟨k, hslot, hheld.imp_right And.left⟩

theorem laneJobStart_next {s : State} (h : KeysHeld s) : ∃ t, exec .laneJobStart s = .next t := by
  change ∃ t, execLaneJobStart s = .next t
  unfold execLaneJobStart
  split_ifs
  · exact ⟨s, rfl⟩
  · have h' : KeysHeld (serveHeads s) := (serveHeads_turns s).keeps (fun _ _ => keysHeld_turn) h
    generalize serveHeads s = u at h' ⊢
    unfold grantLane
    split
    · next hg =>
      obtain ⟨k, hk, -⟩ := waits_slot h' (grantedCandidate_iff.mp hg).1
      rw [hk]
      exact ⟨_, rfl⟩
    · exact ⟨u, rfl⟩

end Sys2Proof.Machine

namespace Sys2Proof.Machine

/-- Settles O9: every turn keeps the law of the slots, and that of the keys in use; a pin needs a use, and a use a key. -/
theorem slotsFollowTheDirectiveUnit : Obligations.SlotsFollowTheDirectiveUnit :=
  ⟨stepKeeps_of_turn fun s t hturn h => (Keys.slotsAgree_iff t).mpr
      (((Keys.slotsAgree_iff s).mp h).turn hturn False.elim False.elim),
    stepKeeps_of_turn fun _ _ => keysHeld_turn,
    fun _ h => ⟨pins_zero h, fun _ _ => waits_slot h, laneJobStart_next h⟩⟩

end Sys2Proof.Machine
end

section
/-! PROOFS. The intake queues and their heads: what leaves them unmoved, the law of the heads, and the rest to which every event
other than a link loss brings them (R69, R73, R127; log entry 10). -/

namespace Sys2Proof.Machine

/-! ### What leaves the heads unmoved -/

/-- What the heads read of a context is the same in two records. -/
structure SameForHeads (c c' : Context) : Prop where
  state : c'.state = c.state
  direction : c'.direction = c.direction
  start : c'.start = c.start
  count : c'.count = c.count
  format : c'.format = c.format
  taken : c'.taken = c.taken
  marks : c'.marks = c.marks

theorem SameForHeads.refl (c : Context) : SameForHeads c c := ⟨rfl, rfl, rfl, rfl, rfl, rfl, rfl⟩

theorem SameForHeads.trans {a b c : Context} (h : SameForHeads a b) (h' : SameForHeads b c) : SameForHeads a c :=
  ⟨h'.1.trans h.1, h'.2.trans h.2, h'.3.trans h.3, h'.4.trans h.4, h'.5.trans h.5, h'.6.trans h.6, h'.7.trans h.7⟩

theorem candidate_iff (q : Queued) (s : State) :
    frontCandidate q s = true ↔ q.frame.header.kind = Kind.sector ∧ s.contexts[frameTag q.frame].state = .active ∧
      s.contexts[frameTag q.frame].direction = .write ∧ writeSectorFault q s.contexts[frameTag q.frame] = none := by
  simp only [frontCandidate, Bool.and_eq_true, beq_iff_eq, Option.isNone_iff_eq_none, and_assoc]

theorem belongs_iff (q : Queued) (s : State) :
    belongsToRead q s = true ↔ s.contexts[frameTag q.frame].state = .active ∧
      s.contexts[frameTag q.frame].direction = .read ∧ frameIndex q.frame < s.contexts[frameTag q.frame].count ∧
      s.contexts[frameTag q.frame].marks.getLsbD (frameIndex q.frame) = false := by
  simp only [belongsToRead, Bool.and_eq_true, beq_iff_eq, decide_eq_true_eq, Bool.not_eq_true', and_assoc]

theorem writeSectorFault_congr (q : Queued) {c c' : Context} (h : SameForHeads c c') :
    writeSectorFault q c' = writeSectorFault q c := by
  unfold writeSectorFault
  simp only [h.taken, h.start, h.format]

theorem candidate_of_same {q : Queued} {s t : State} (h : frontCandidate q s = true)
    (hc : SameForHeads s.contexts[frameTag q.frame] t.contexts[frameTag q.frame]) : frontCandidate q t = true := by
  rw [candidate_iff] at h ⊢
  rw [writeSectorFault_congr q hc, hc.state, hc.direction]
  exact h

theorem belongs_of_same {q : Queued} {s t : State} (h : belongsToRead q s = true)
    (hc : SameForHeads s.contexts[frameTag q.frame] t.contexts[frameTag q.frame]) : belongsToRead q t = true := by
  rw [belongs_iff] at h ⊢
  rw [hc.state, hc.direction, hc.count, hc.marks]
  exact h

/-- The intake queues and the verdict are as they were, and so is what the heads read of an ACTIVE context. -/
structure Unmoved (s t : State) : Prop where
  fiq : t.fiq = s.fiq
  miq : t.miq = s.miq
  verdict : t.verdict = s.verdict
  active : ∀ i : Tag, s.contexts[i].state = .active → SameForHeads s.contexts[i] t.contexts[i]

theorem Unmoved.refl (s : State) : Unmoved s s := ⟨rfl, rfl, rfl, fun _ _ => .refl _⟩

theorem Unmoved.trans {s t u : State} (a : Unmoved s t) (b : Unmoved t u) : Unmoved s u :=
  ⟨b.fiq.trans a.fiq, b.miq.trans a.miq, b.verdict.trans a.verdict, fun i h =>
    (a.active i h).trans (b.active i ((a.active i h).state.trans h))⟩

theorem Unmoved.contexts {s t : State} (hf : t.fiq = s.fiq) (hm : t.miq = s.miq) (hv : t.verdict = s.verdict)
    (hc : t.contexts = s.contexts) : Unmoved s t := ⟨hf, hm, hv, fun i _ => by rw [hc]; exact .refl _⟩

theorem Unmoved.foldl {α : Type} {f : State → α → State} (h : ∀ s a, Unmoved s (f s a)) (l : List α) (s : State) :
    Unmoved s (l.foldl f s) := by
  induction l generalizing s with
  | nil => exact .refl s
  | cons a as ih => exact (h s a).trans (ih _)

/-- A record changes that is not ACTIVE, or not in what the heads read. -/
theorem putContext_unmoved {t : Tag} {c : Context} {s : State}
    (h : s.contexts[t].state = .active → SameForHeads s.contexts[t] c) : Unmoved s (putContext t c s) := by
  refine ⟨rfl, rfl, rfl, fun i hi => ?_⟩
  rw [putContext_contexts, set_get]
  split_ifs with hti
  · subst hti
    exact h hi
  · exact .refl _

theorem answer_unmoved (r : Result) (data : Bytes) (s : State) : Unmoved s (answer r data s) := by
  obtain ⟨hf, hm, hv, -⟩ := answer_heads r data 0 s
  exact .contexts hf hm hv (answer_contexts ..)

theorem leaveDrain_unmoved (t : Tag) (s : State) : Unmoved s (leaveDrain t s) := by
  obtain ⟨hf, hm, hv, -⟩ := leaveDrain_heads t s
  exact .contexts hf hm hv (leaveDrain_contexts ..)

theorem emptySlot_unmoved (k : SlotIx) (s : State) : Unmoved s (emptySlot k s) := .contexts rfl rfl rfl rfl

theorem completeDrain_unmoved (k : SlotIx) (goal : DrainGoal) (s : State) : Unmoved s (completeDrain k goal s) := by
  have hempty (r : Result) : Unmoved s (answer r [] (emptySlot k s)) :=
    (emptySlot_unmoved k s).trans (answer_unmoved r [] _)
  unfold completeDrain
  split
  · exact hempty .ok
  · split_ifs
    · exact hempty .randomFailed
    · exact .contexts rfl rfl rfl rfl

theorem enterReporting_unmoved {t : Tag} {s : State} (h : s.contexts[t].state ≠ .active) : Unmoved s (enterReporting t s) := by
  have hput := putContext_unmoved (c := { s.contexts[t] with state := .reporting, deadline := none }) fun e => absurd e h
  refine Unmoved.trans ?_ (leaveDrain_unmoved t _)
  exact ⟨hput.fiq, hput.miq, hput.verdict, hput.active⟩

theorem freeContext_unmoved {t : Tag} {s : State} (h : s.contexts[t].state ≠ .active) : Unmoved s (freeContext t s) :=
  (putContext_unmoved fun e => absurd e h).trans (leaveDrain_unmoved t _)

theorem leaveEnding_unmoved (t : Tag) (s : State) : Unmoved s (leaveEnding t s) := by
  rcases leaveEnding_cases t s with he | ⟨hs, -, he | he⟩ <;> rw [he]
  · exact .refl s
  · exact freeContext_unmoved (by rw [hs]; decide)
  · exact enterReporting_unmoved (by rw [hs]; decide)

theorem finishTransfer_unmoved (t : Tag) (s : State) : Unmoved s (finishTransfer t s) := by
  unfold finishTransfer
  split_ifs with hc
  · have hs : s.contexts[t].state ≠ .active := by rw [hc.1]; decide
    refine Unmoved.trans (putContext_unmoved fun e => absurd e hs) (enterReporting_unmoved ?_)
    rw [putContext_contexts, set_get_self]
    exact hs
  · exact .refl s

theorem releaseLane_unmoved (l : LaneIx) (j : Job) (s : State) : Unmoved s (releaseLane l j s) := by
  refine ⟨rfl, rfl, rfl, fun i _ => ?_⟩
  rw [releaseLane_contexts, set_get]
  split_ifs with h
  · subst h
    exact ⟨rfl, rfl, rfl, rfl, rfl, rfl, rfl⟩
  · exact .refl _

theorem discardOutput_unmoved (l : LaneIx) (j : Job) (s : State) : Unmoved s (discardOutput l j s) :=
  (releaseLane_unmoved l j s).trans (leaveEnding_unmoved ..)

theorem deliver_unmoved (t : Tag) (r : ReadStatus) (f : Frame) (s : State) : Unmoved s (deliver t r f s) := by
  have hheads : (deliver t r f s).fiq = s.fiq ∧ (deliver t r f s).miq = s.miq ∧ (deliver t r f s).verdict = s.verdict := by
    cases r <;> exact ⟨rfl, rfl, rfl⟩
  refine ⟨hheads.1, hheads.2.1, hheads.2.2, fun i _ => ?_⟩
  rw [(deliver_tables t r f s).1, set_get]
  split_ifs with h
  · subst h
    exact ⟨rfl, rfl, rfl, rfl, rfl, rfl, rfl⟩
  · exact .refl _

theorem emit_unmoved (t : Tag) (f : Frame) (s : State) : Unmoved s (emit t f s) := by
  have hput := putContext_unmoved (s := s) (t := t) (c := { s.contexts[t] with finished := s.contexts[t].finished + 1 })
    fun _ => ⟨rfl, rfl, rfl, rfl, rfl, rfl, rfl⟩
  exact ⟨hput.fiq, hput.miq, hput.verdict, hput.active⟩

theorem enterOutput_unmoved (l : LaneIx) (j : Job) (f : Frame) (target : SectorQueue) (s : State) :
    Unmoved s (enterOutput l j f target s) := by
  unfold enterOutput
  refine Unmoved.trans ?_ ((finishTransfer_unmoved ..).trans (leaveEnding_unmoved ..))
  cases target with
  | moq => exact (releaseLane_unmoved l j s).trans (emit_unmoved ..)
  | fsq => exact (releaseLane_unmoved l j s).trans (deliver_unmoved ..)

theorem completeJob_unmoved (l : LaneIx) (j : Job) (s : State) : Unmoved s (completeJob l j s) := by
  unfold completeJob offerOutput
  split_ifs
  · exact enterOutput_unmoved ..
  · unfold holdOutput
    cases targetQueue j <;> exact .contexts rfl rfl rfl rfl
  · exact discardOutput_unmoved ..

theorem takeOpen_unmoved {q : Queued} {s : State} (h : s.contexts[frameTag q.frame].state = .free) :
    Unmoved s (takeOpen q s) := by
  have hs : s.contexts[frameTag q.frame].state ≠ .active := by rw [h]; decide
  unfold takeOpen
  dsimp only
  split
  · exact putContext_unmoved fun e => absurd e hs
  · refine Unmoved.trans (putContext_unmoved fun e => absurd e hs) (enterReporting_unmoved ?_)
    rw [putContext_contexts, set_get_self]
    unfold openedContext
    simp [Context.free]

theorem frontSent_unmoved (s : State) : Unmoved s (frontSent s) := by
  have hpop : Unmoved s { s with front := s.front.sent s.rpq.head?, rpq := s.rpq.tail } := .contexts rfl rfl rfl rfl
  unfold frontSent
  split
  · dsimp only
    split
    · refine hpop.trans ?_
      unfold reportLeaves
      split_ifs with _ hr
      · exact putContext_unmoved fun e => by
          rw [e] at hr
          cases hr
      · exact .refl _
      · exact .contexts rfl rfl rfl rfl
    · exact hpop
  · exact .contexts rfl rfl rfl rfl
  · exact .refl s

theorem putPort_unmoved (p : PortId) (x : Port) (s : State) : Unmoved s (putPort p x s) := by
  cases p <;> exact .contexts rfl rfl rfl rfl

theorem mediaSent_unmoved (s : State) : Unmoved s (mediaSent s) := by
  unfold mediaSent
  split
  · exact .contexts rfl rfl rfl rfl
  · exact .refl s

theorem testMarks_unmoved (p : PortId) (s : State) : Unmoved s (testMarks p s) := putPort_unmoved ..

theorem flowSent_unmoved (p : PortId) (s : State) : Unmoved s (flowSent p s) := by
  unfold flowSent
  split
  · exact (putPort_unmoved ..).trans (testMarks_unmoved ..)
  · exact .refl s

theorem transmit_unmoved (s : State) : Unmoved s (transmit s) :=
  .contexts (transmit_fiq s) (transmit_miq s) (transmit_verdict s) (transmit_contexts s)

theorem raise_unmoved (f : Fin 15) (s : State) : Unmoved s (raise f s) := .contexts rfl rfl rfl rfl

/-! ### The law of the heads -/

theorem HeadsLawful.unmoved {s t : State} (h : HeadsLawful s) (u : Unmoved s t) : HeadsLawful t := by
  obtain ⟨hv, hf, hm⟩ := h
  refine ⟨fun hs => ?_, by rw [u.fiq]; exact hf, by rw [u.miq]; exact hm⟩
  rw [u.verdict] at hs
  obtain ⟨q, hq, hb⟩ := hv hs
  exact ⟨q, by rw [u.miq]; exact hq, belongs_of_same hb (u.active _ (belongsToRead_active hb))⟩

/-- The verdict is gone or stands for the head it stood for, and the queues only got shorter. -/
theorem HeadsLawful.shorter {s t : State} (h : HeadsLawful s) (hf : t.fiq <:+ s.fiq) (hm : t.miq <:+ s.miq)
    (hv : t.verdict.isSome = true → ∃ q ∈ t.miq.head?, belongsToRead q t = true) : HeadsLawful t :=
  ⟨hv, fun q hq => h.2.1 q (hf.subset hq), fun q hq => h.2.2 q (hm.subset hq)⟩

theorem popIntake_front_heads (s : State) : (popIntake .front s).miq = s.miq ∧ (popIntake .front s).verdict = s.verdict :=
  ⟨rfl, rfl⟩

theorem popIntake_media_verdict (s : State) : (popIntake .media s).verdict = none := rfl

theorem belongs_congr {q : Queued} {s t : State} (h : t.contexts[frameTag q.frame] = s.contexts[frameTag q.frame]) :
    belongsToRead q t = belongsToRead q s := by
  unfold belongsToRead
  rw [h]

theorem HeadsLawful.pop {s : State} (h : HeadsLawful s) (p : PortId) : HeadsLawful (popIntake p s) := by
  refine h.shorter (popIntake_calm p s).fiq (popIntake_calm p s).miq fun hv => ?_
  cases p with
  | front =>
    obtain ⟨q, hq, hb⟩ := h.1 hv
    exact ⟨q, hq, hb⟩
  | media => cases hv

/-- The judged frame at the media head is discarded with its context, or is another's (R79). -/
theorem discardMediaHead_verdict {t : Tag} {s : State} (h : (discardMediaHead t s).verdict.isSome = true) :
    s.verdict.isSome = true ∧ discardMediaHead t s = s ∧ ∀ q ∈ s.miq.head?, t ≠ frameTag q.frame := by
  unfold discardMediaHead at h ⊢
  split_ifs at h ⊢ with hc
  · cases h
  · refine ⟨h, rfl, fun q hq e => hc ?_⟩
    cases hm : s.miq with
    | nil =>
      rw [hm] at hq
      cases hq
    | cons a as =>
      rw [hm] at hq
      obtain rfl := Option.some.inj hq
      simp [h, headIsOf, e]

theorem HeadsLawful.enterEnding {s : State} (h : HeadsLawful s) (t : Tag) (c : Context) : HeadsLawful (Machine.enterEnding t c s) := by
  have hcalm : Calm (putContext t { c with state := .ending, deadline := none } s)
      (Machine.enterEnding t c s) := by
    unfold Machine.enterEnding
    exact enterEnding_cleanup_calm ..
  refine h.shorter hcalm.fiq hcalm.miq fun hv => ?_
  rw [enterEnding_eq] at hv ⊢
  have hun := unread_heads t (discardMediaHead t (discardFrontHead t
    (putContext t { c with state := .ending, deadline := none } s)))
  have hle := leaveEnding_unmoved t ((discardMediaHead t (discardFrontHead t
    (putContext t { c with state := .ending, deadline := none } s))).unread t)
  rw [hle.verdict, hun.2.2.1] at hv
  obtain ⟨hv', he, hne⟩ := discardMediaHead_verdict hv
  have hfront : ∀ u : State, (discardFrontHead t u).verdict = u.verdict ∧ (discardFrontHead t u).miq = u.miq ∧
      (discardFrontHead t u).contexts = u.contexts := fun u => by
    unfold discardFrontHead
    split_ifs <;> exact ⟨rfl, rfl, rfl⟩
  obtain ⟨hfv, hfm, hfc⟩ := hfront (putContext t { c with state := .ending, deadline := none } s)
  rw [hfv] at hv'
  rw [hfm] at hne
  obtain ⟨q, hq, hb⟩ := h.1 hv'
  have hqt := hne q hq
  refine ⟨q, by rw [hle.miq, hun.2.1, he, hfm]; exact hq, ?_⟩
  rw [belongs_congr (s := s)]
  · exact hb
  · rw [leaveEnding_contexts_ne hqt, unread_contexts_ne hqt, he, hfc, putContext_contexts, set_get_ne _ _ hqt]

theorem HeadsLawful.endTransfer {s : State} (h : HeadsLawful s) (t : Tag) (e : Ending) (fail : Option Nat) :
    HeadsLawful (endTransfer t e fail s) := by
  unfold Machine.endTransfer
  split_ifs
  · exact h.enterEnding ..
  · exact h

theorem HeadsLawful.foldl {α : Type} {f : State → α → State} (hf : ∀ s a, HeadsLawful s → HeadsLawful (f s a))
    (l : List α) {s : State} (h : HeadsLawful s) : HeadsLawful (l.foldl f s) := by
  induction l generalizing s with
  | nil => exact h
  | cons a as ih => exact ih (hf s a h)

theorem HeadsLawful.frontLossContext {s : State} (h : HeadsLawful s) (t : Tag) : HeadsLawful (frontLossContext t s) := by
  unfold Machine.frontLossContext
  dsimp only
  split
  · exact h
  · exact h.enterEnding ..
  · exact h.enterEnding ..
  · next hs => exact h.unmoved ((putContext_unmoved fun e => by rw [hs] at e; cases e).trans (leaveEnding_unmoved ..))
  · next hs => exact h.unmoved (freeContext_unmoved (by rw [hs]; decide))

theorem HeadsLawful.frontLoss {s : State} (h : HeadsLawful s) : HeadsLawful (frontLoss s) := by
  rw [frontLoss_eq]
  refine HeadsLawful.foldl (fun s t h => h.frontLossContext t) _ ?_
  exact h.shorter (List.nil_suffix) (List.suffix_refl _) h.1

theorem discardHeldWrite_unmoved (l : LaneIx) (s : State) : Unmoved s (discardHeldWrite l s) := by
  unfold discardHeldWrite
  split
  · exact discardOutput_unmoved ..
  · exact .refl s

theorem mediaCut_heads (s : State) : (mediaCut s).verdict = none ∧ (mediaCut s).miq = [] ∧ (mediaCut s).fiq <:+ s.fiq := by
  unfold mediaCut discardWaitingSector
  split
  · split_ifs
    · exact ⟨rfl, rfl, List.tail_suffix _⟩
    · exact ⟨rfl, rfl, List.suffix_refl _⟩
  · exact ⟨rfl, rfl, List.suffix_refl _⟩

/-- With the media queue empty there is no verdict, before and after the endings that a media link loss brings. -/
theorem HeadsLawful.mediaLoss {s : State} (h : HeadsLawful s) : HeadsLawful (mediaLoss s) := by
  obtain ⟨hv, hm, hf⟩ := mediaCut_heads s
  have hcut : HeadsLawful { mediaCut s with fiq := [] } :=
    h.shorter List.nil_suffix (by rw [hm]; exact List.nil_suffix) fun e => by rw [hv] at e; cases e
  have hends : HeadsLawful (mediaEnds { mediaCut s with fiq := [] }) := by
    unfold mediaEnds
    exact HeadsLawful.foldl (fun s l h => h.unmoved (discardHeldWrite_unmoved l s)) _
      (HeadsLawful.foldl (fun s t h => h.endTransfer t _ _) _ hcut)
  have hmiq : (mediaEnds { mediaCut s with fiq := [] }).miq = [] := by
    have hsuffix := (mediaEnds_calm { mediaCut s with fiq := [] }).miq
    rw [hm] at hsuffix
    exact List.suffix_nil.mp hsuffix
  rw [mediaLoss_eq]
  generalize mediaEnds { mediaCut s with fiq := [] } = e at hends hmiq ⊢
  refine h.shorter hf (by rw [hmiq]; exact List.nil_suffix) fun hs => ?_
  obtain ⟨q, hq, -⟩ := hends.1 hs
  rw [hmiq] at hq
  cases hq

theorem startJob_heads (l : LaneIx) (q : Queued) (k : SlotIx) (s : State) :
    (startJob l .front q k s).miq = s.miq ∧ (startJob l .front q k s).verdict = s.verdict ∧
      (startJob l .front q k s).fiq = s.fiq.tail ∧ (startJob l .media q k s).miq = s.miq.tail ∧
      (startJob l .media q k s).verdict = none ∧ (startJob l .media q k s).fiq = s.fiq := ⟨rfl, rfl, rfl, rfl, rfl, rfl⟩

theorem HeadsLawful.startJob {s : State} (h : HeadsLawful s) {side : PortId} {q : Queued} (hw : Waits side q s) (l : LaneIx)
    (k : SlotIx) : HeadsLawful (startJob l side q k s) := by
  obtain ⟨hm, hv, hf, hm', hv', hf'⟩ := startJob_heads l q k s
  cases side with
  | front =>
    refine h.shorter (by rw [hf]; exact List.tail_suffix _) (by rw [hm]) fun hs => ?_
    rw [hv] at hs
    obtain ⟨x, hx, hb⟩ := h.1 hs
    have hne : frameTag q.frame ≠ frameTag x.frame := fun e => by
      have hcand := (candidate_iff q s).mp (hw.resolve_right fun ⟨e, _⟩ => by cases e).2.2
      have hread := ((belongs_iff x s).mp hb).2.1
      have hwrite := hcand.2.2.1
      simp only [e] at hwrite
      rw [hread] at hwrite
      cases hwrite
    refine ⟨x, by rw [hm]; exact hx, ?_⟩
    rw [belongs_congr (s := s)]
    · exact hb
    · exact set_get_ne _ _ hne
  | media =>
    refine h.shorter (by rw [hf']) (by rw [hm']; exact List.tail_suffix _) fun hs => ?_
    rw [hv'] at hs
    cases hs

theorem HeadsLawful.takeBypass {s : State} (h : HeadsLawful s) (q : Queued) (r : ReadStatus) :
    HeadsLawful (takeBypass q r s) := by
  obtain ⟨hf, hm, hv, -⟩ := takeBypass_heads q r s
  exact h.shorter (by rw [hf]; exact (popIntake_calm .media s).fiq) (by rw [hm]; exact (popIntake_calm .media s).miq)
    fun hs => by rw [hv] at hs; cases hs

/-- A frame that an intake queue takes is of a kind that the queue holds (R87, R151). -/
theorem arrivalClass_intake {p : PortId} {h : Header} (hc : arrivalClass p h = .intake) :
    (p = .front → h.kind.toNat ∈ [1, 2]) ∧ (p = .media → h.kind.toNat ∈ [2, 6, 7]) := by
  rw [arrivalClass_eq] at hc
  split_ifs at hc with h1 h2 h3 h4
  obtain ⟨hk, -⟩ := h3
  constructor
  · rintro rfl
    rcases hk with hk | ⟨-, hk⟩ | ⟨e, -⟩
    · simp [hk]
    · simp [hk]
    · cases e
  · rintro rfl
    rcases hk with hk | ⟨e, -⟩ | ⟨-, hk | hk⟩
    · simp [hk]
    · cases e
    · simp [hk]
    · simp [hk]

theorem HeadsLawful.arrives {s : State} (h : HeadsLawful s) {p : PortId} {f : Frame}
    (hc : arrivalClass p f.header = .intake) (b : Bool) :
    HeadsLawful (putIntake p (s.intake p ++ [{ frame := f, damaged := b }]) s) := by
  obtain ⟨hv, hf, hm⟩ := h
  obtain ⟨hfront, hmedia⟩ := arrivalClass_intake hc
  cases p with
  | front =>
    refine ⟨hv, fun q hq => ?_, hm⟩
    rcases List.mem_append.mp (show q ∈ s.fiq ++ [_] from hq) with hq | hq
    · exact hf q hq
    · rw [List.mem_singleton.mp hq]
      exact hfront rfl
  | media =>
    refine ⟨fun hs => ?_, hf, fun q hq => ?_⟩
    · obtain ⟨q, hq, hb⟩ := hv hs
      refine ⟨q, ?_, hb⟩
      change q ∈ (s.miq ++ [_]).head?
      rw [List.head?_append, Option.mem_def.mp hq]
      rfl
    · rcases List.mem_append.mp (show q ∈ s.miq ++ [_] from hq) with hq | hq
      · exact hm q hq
      · rw [List.mem_singleton.mp hq]
        exact hmedia rfl

theorem PortTurn.lawful {s t : State} (hp : PortTurn s t) (h : HeadsLawful s) : HeadsLawful t := by
  cases hp with
  | transmit => exact h.unmoved (transmit_unmoved s)
  | pop p => exact h.pop p
  | judged q v _ hq hb => exact ⟨fun _ => ⟨q, hq, hb⟩, h.2⟩
  | arrives p f _ hc => exact h.arrives hc _
  | hears p => exact h.unmoved (putPort_unmoved ..)
  | mediaSent => exact h.unmoved (mediaSent_unmoved s)
  | flowSent p => exact h.unmoved (flowSent_unmoved p s)
  | marks p => exact h.unmoved (testMarks_unmoved p s)
  | _ => exact h.unmoved (.contexts rfl rfl rfl rfl)

theorem HeadsLawful.reset {s : State} (hf : s.fiq = []) (hm : s.miq = []) (hv : s.verdict = none) : HeadsLawful s := by
  refine ⟨fun e => ?_, fun q hq => ?_, fun q hq => ?_⟩
  · rw [hv] at e
    cases e
  · rw [hf] at hq
    exact (List.not_mem_nil hq).elim
  · rw [hm] at hq
    exact (List.not_mem_nil hq).elim

theorem resetEngineBody_heads (p : Bytes) (s : State) :
    (resetEngineBody p s).fiq = [] ∧ (resetEngineBody p s).miq = [] ∧ (resetEngineBody p s).verdict = none := by
  unfold resetEngineBody
  obtain ⟨hf, hm, hv, -⟩ := answer_heads .ok [] 0 { State.reset with
    time := s.time, front := s.front.engineReset, media := s.media.engineReset,
    drq := (firstUnexecuted s.drq).toList, events := s.events.engineReset, pending := s.pending }
  exact ⟨hf, hm, hv⟩

theorem stopDrainTimer_unmoved (s : State) : Unmoved s (stopDrainTimer s) := by
  unfold stopDrainTimer
  split
  · exact .contexts rfl rfl rfl rfl
  · exact .refl s

theorem failFilling_unmoved (k : SlotIx) (r : Result) (s : State) : Unmoved s (failFilling k r s) :=
  (emptySlot_unmoved k s).trans (answer_unmoved r [] _)

theorem readyAnswer_unmoved (k : SlotIx) (dk tk : Key) (g : Generation) (data : Bytes) (s : State) :
    Unmoved s (answer .ok data (readySlot k dk tk g s)) :=
  have hready : Unmoved s (readySlot k dk tk g s) := .contexts rfl rfl rfl rfl
  hready.trans (answer_unmoved .ok data _)

theorem HeadsLawful.turn {s t : State} (hturn : Turn s t) (h : HeadsLawful s) : HeadsLawful t := by
  cases hturn with
  | port hp => exact hp.lawful h
  | opens q _ hf => exact h.unmoved (takeOpen_unmoved hf)
  | ends t e fail => exact h.endTransfer t e fail
  | bypasses q r => exact h.takeBypass q r
  | starts l side q k _ _ hw => exact h.startJob hw l k
  | completes l j => exact h.unmoved (completeJob_unmoved l j s)
  | handsOff l j f q => exact h.unmoved (enterOutput_unmoved l j f q s)
  | reportSent => exact h.unmoved (frontSent_unmoved s)
  | frontLost => exact h.frontLoss
  | mediaLost => exact h.mediaLoss
  | answers r data => exact h.unmoved (answer_unmoved r data s)
  | directive | defines | disables | locks | limits | wraps | fills => exact h.unmoved (.contexts rfl rfl rfl rfl)
  | resets p =>
    obtain ⟨hf, hm, hv⟩ := resetEngineBody_heads p s
    exact .reset hf hm hv
  | powers b => exact .reset rfl rfl rfl
  | fillFails k r => exact h.unmoved (failFilling_unmoved k r s)
  | fillEnds k dk tk g data => exact h.unmoved (readyAnswer_unmoved ..)
  | drains k goal timer =>
    have hbegun : Unmoved s (drainBegun k goal timer s) := .contexts rfl rfl rfl rfl
    split_ifs
    · exact h.unmoved (hbegun.trans (completeDrain_unmoved ..))
    · exact h.unmoved hbegun
  | timerStops => exact h.unmoved (stopDrainTimer_unmoved s)

/-! ### Where no frame waits -/

/-- An operation after which no frame waits at a head, if none did before (log entry 10). -/
def Rests (s t : State) : Prop := headsWait s = false → headsWait t = false

theorem Unmoved.rests {s t : State} (u : Unmoved s t) : Rests s t := by
  intro h
  rw [headsWait_false] at h ⊢
  obtain ⟨hf, hm⟩ := h
  refine ⟨fun q hq => ?_, by rw [u.miq, u.verdict]; exact hm⟩
  rw [u.fiq] at hq
  exact candidate_of_same (hf q hq) (u.active _ (frontCandidate_active (hf q hq)))

theorem Rests.trans {s t u : State} (a : Rests s t) (b : Rests t u) : Rests s u := b ∘ a

theorem frontHead_rested {n : Nat} {s : State} (h : s.fiq.length ≤ n) :
    ∀ q ∈ (frontHead n s).fiq.head?, frontCandidate q (frontHead n s) = true := by
  induction n generalizing s with
  | zero =>
    intro q hq
    rw [frontHead, List.length_eq_zero_iff.mp (Nat.le_zero.mp h)] at hq
    cases hq
  | succ n ih =>
    cases hs : s.fiq with
    | nil =>
      intro q hq
      rw [frontHead, hs] at hq
      dsimp only at hq
      rw [hs] at hq
      cases hq
    | cons a as =>
      rw [frontHead, hs]
      dsimp only
      split_ifs with hc
      · intro q hq
        rw [hs] at hq
        obtain rfl := Option.some.inj hq
        exact hc
      · have := disposeFront_shorter hs
        exact ih (by omega)

theorem mediaHead_rested {n : Nat} {s : State} (h : s.miq.length ≤ n)
    (hf : ∀ q ∈ s.fiq.head?, frontCandidate q s = true) : headsWait (mediaHead n s) = false := by
  induction n generalizing s with
  | zero =>
    rw [mediaHead, headsWait_false]
    exact ⟨hf, Or.inl (List.length_eq_zero_iff.mp (Nat.le_zero.mp h))⟩
  | succ n ih =>
    by_cases hv : s.verdict.isSome = true
    · rw [mediaHead_rest (Or.inr hv), headsWait_false]
      exact ⟨hf, Or.inr hv⟩
    · cases hm : s.miq with
      | nil =>
        rw [mediaHead_rest (Or.inl hm), headsWait_false]
        exact ⟨hf, Or.inl hm⟩
      | cons q qs =>
        rw [mediaHead, if_neg hv, hm]
        dsimp only
        obtain ⟨hshort, hf'⟩ := disposeMedia_turn hm hf
        rcases hshort with hv' | hlen
        · rw [mediaHead_rest (Or.inr hv'), headsWait_false]
          exact ⟨hf', Or.inr hv'⟩
        · exact ih (by omega) hf'

/-- After the heads have taken their frames none waits (log entry 10). -/
theorem headsWait_heads (s : State) : headsWait (heads s) = false :=
  mediaHead_rested (le_refl _) (frontHead_rested (le_refl _))

theorem headsWait_settle (s : State) : headsWait (settle s) = false := (transmit_unmoved _).rests (headsWait_heads s)

theorem headsWait_serveHeads (s : State) : headsWait (serveHeads s) = false := by
  unfold serveHeads
  split_ifs with h
  · exact headsWait_settle s
  · simpa using h

theorem heads_rests (s t : State) : Rests s (heads t) := fun _ => headsWait_heads t

theorem settle_rests (s t : State) : Rests s (settle t) := fun _ => headsWait_settle t

theorem Rests.transmit {s t : State} (h : Rests s t) : Rests s (transmit t) := h.trans (transmit_unmoved t).rests

/-- Heads at rest under the law of the heads: no frame waits (R101, R127). -/
theorem atRest_of_lawful {s : State} (h : HeadsLawful s) (hw : headsWait s = false) : AtRest s := by
  obtain ⟨hf, hm⟩ := headsWait_false.mp hw
  have hsome : s.verdict.isSome = true → s.miq ≠ [] := fun hs e => by
    obtain ⟨q, hq, -⟩ := h.1 hs
    rw [e] at hq
    cases hq
  refine ⟨hf, ⟨hsome, fun hne => hm.resolve_left hne⟩, fun q hq => ?_⟩
  have hne : s.miq ≠ [] := fun e => by
    rw [e] at hq
    cases hq
  obtain ⟨x, hx, hb⟩ := h.1 (hm.resolve_left hne)
  obtain rfl := Option.some.inj ((Option.mem_def.mp hq).symm.trans hx)
  exact hb

theorem AtRest.unmoved {s t : State} (h : AtRest s) (u : Unmoved s t) : AtRest t := by
  obtain ⟨hf, hv, hm⟩ := h
  refine ⟨fun q hq => ?_, by rw [u.miq, u.verdict]; exact hv, fun q hq => ?_⟩
  · rw [u.fiq] at hq
    exact candidate_of_same (hf q hq) (u.active _ (frontCandidate_active (hf q hq)))
  · rw [u.miq] at hq
    exact belongs_of_same (hm q hq) (u.active _ (belongsToRead_active (hm q hq)))

/-! ### Every event but a link loss comes to rest -/

theorem directive_rests {row : DirectiveRow} {body : Bytes → State → State} (h : ∀ p s, Rests s (body p s)) (s : State) :
    Rests s (transmit (beginDirective row body s)) := by
  refine Rests.transmit ?_
  unfold beginDirective
  split
  · split_ifs
    · exact (answer_unmoved ..).rests
    · exact (answer_unmoved ..).rests
    · exact h _ s
    · exact id
  · exact id

theorem answer_rests {s t : State} (r : Result) (data : Bytes) (u : Unmoved s t) : Rests s (answer r data t) :=
  (u.trans (answer_unmoved r data t)).rests

theorem defineRangeBody_rests (p : Bytes) (s : State) : Rests s (defineRangeBody p s) := by
  unfold defineRangeBody
  split
  · dsimp only
    split
    · exact answer_rests _ _ (.refl s)
    · exact answer_rests _ _ (.contexts rfl rfl rfl rfl)
  · exact answer_rests _ _ (.refl s)

theorem disableRangeBody_rests (p : Bytes) (s : State) : Rests s (disableRangeBody p s) := by
  unfold disableRangeBody
  split
  · split_ifs
    · exact answer_rests _ _ (.refl s)
    · exact answer_rests _ _ (.refl s)
    · exact answer_rests _ _ (.contexts rfl rfl rfl rfl)
  · exact answer_rests _ _ (.refl s)

theorem setLocksBody_rests (p : Bytes) (s : State) : Rests s (setLocksBody p s) := by
  unfold setLocksBody
  split
  · exact answer_rests _ _ (.contexts rfl rfl rfl rfl)
  · exact answer_rests _ _ (.refl s)

theorem setWrappingKeyBody_rests (p : Bytes) (s : State) : Rests s (setWrappingKeyBody p s) := by
  unfold setWrappingKeyBody
  split
  · exact answer_rests _ _ (.contexts rfl rfl rfl rfl)
  · exact answer_rests _ _ (.refl s)

theorem clearWrappingKeyBody_rests (p : Bytes) (s : State) : Rests s (clearWrappingKeyBody p s) := by
  unfold clearWrappingKeyBody
  split
  · exact answer_rests _ _ (.contexts rfl rfl rfl rfl)
  · exact answer_rests _ _ (.refl s)

theorem generateKeyBody_rests (p : Bytes) (s : State) : Rests s (generateKeyBody p s) := by
  unfold generateKeyBody
  split
  · split_ifs
    · exact answer_rests _ _ (.refl s)
    · exact answer_rests _ _ (.refl s)
    · exact answer_rests _ _ (.refl s)
    · exact (Unmoved.contexts rfl rfl rfl rfl).rests
  · exact answer_rests _ _ (.refl s)

theorem installKeyBody_rests (p : Bytes) (s : State) : Rests s (installKeyBody p s) := by
  unfold installKeyBody
  split
  · dsimp only
    split_ifs
    · exact answer_rests _ _ (.refl s)
    · exact answer_rests _ _ (.refl s)
    · exact answer_rests _ _ (.refl s)
    · exact (Unmoved.contexts rfl rfl rfl rfl).rests
  · exact answer_rests _ _ (.refl s)

/-- The beginning of a drain, in the words of `drainBegun` (R55). -/
theorem beginDrain_eq (k : SlotIx) (goal : DrainGoal) (mode : DrainMode) (s : State) :
    ∃ timer, beginDrain k goal mode s = completeDrain k goal (drainBegun k goal timer s) ∨
      beginDrain k goal mode s = drainBegun k goal timer s ∨
      beginDrain k goal mode s = heads (cutTransfers (drainSetOf k s) (drainBegun k goal timer s)) := by
  unfold beginDrain
  dsimp only
  cases mode with
  | wait =>
    refine ⟨if (drainSetOf k s).isEmpty then none else some (timeAfter s.time (1000 * s.limits.drain)), ?_⟩
    split_ifs
    · exact Or.inl rfl
    · exact Or.inr (Or.inl rfl)
  | cut =>
    refine ⟨none, ?_⟩
    split_ifs
    · exact Or.inl rfl
    · exact Or.inr (Or.inr rfl)

theorem beginDrain_rests (k : SlotIx) (goal : DrainGoal) (mode : DrainMode) (s : State) :
    Rests s (beginDrain k goal mode s) := by
  obtain ⟨timer, h⟩ := beginDrain_eq k goal mode s
  have hbegun : Unmoved s (drainBegun k goal timer s) := .contexts rfl rfl rfl rfl
  rcases h with h | h | h <;> rw [h]
  · exact (hbegun.trans (completeDrain_unmoved ..)).rests
  · exact hbegun.rests
  · exact heads_rests _ _

theorem rekeySlotBody_rests (p : Bytes) (s : State) : Rests s (rekeySlotBody p s) := by
  unfold rekeySlotBody
  split
  · dsimp only
    split_ifs
    · exact answer_rests _ _ (.refl s)
    · exact answer_rests _ _ (.refl s)
    · exact answer_rests _ _ (.refl s)
    · exact answer_rests _ _ (.refl s)
    · exact beginDrain_rests _ _ _ _
  · exact answer_rests _ _ (.refl s)

theorem discardKeyBody_rests (p : Bytes) (s : State) : Rests s (discardKeyBody p s) := by
  unfold discardKeyBody
  split
  · split_ifs
    · exact answer_rests _ _ (.refl s)
    · exact beginDrain_rests _ _ _ _
  · exact answer_rests _ _ (.refl s)

theorem abandonTransferBody_rests (p : Bytes) (s : State) : Rests s (abandonTransferBody p s) := by
  unfold abandonTransferBody
  split
  · split_ifs
    · exact heads_rests _ _
    · exact answer_rests _ _ (.refl s)
  · exact answer_rests _ _ (.refl s)

theorem setLimitsBody_rests (p : Bytes) (s : State) : Rests s (setLimitsBody p s) := by
  unfold setLimitsBody
  dsimp only
  split_ifs
  · exact answer_rests _ _ (.refl s)
  · exact answer_rests _ _ (.refl s)
  · refine answer_rests _ _ (Unmoved.trans ?_ ((testMarks_unmoved ..).trans (testMarks_unmoved ..)))
    exact .contexts rfl rfl rfl rfl

theorem queryRangeBody_rests (p : Bytes) (s : State) : Rests s (queryRangeBody p s) := by
  unfold queryRangeBody
  split <;> exact answer_rests _ _ (.refl s)

theorem querySlotBody_rests (p : Bytes) (s : State) : Rests s (querySlotBody p s) := by
  unfold querySlotBody
  split <;> exact answer_rests _ _ (.refl s)

theorem queryContextBody_rests (p : Bytes) (s : State) : Rests s (queryContextBody p s) := by
  unfold queryContextBody
  split <;> exact answer_rests _ _ (.refl s)

theorem clearEventsBody_rests (p : Bytes) (s : State) : Rests s (clearEventsBody p s) :=
  answer_rests _ _ (.contexts rfl rfl rfl rfl)

theorem resetEngineBody_rests (p : Bytes) (s : State) : Rests s (resetEngineBody p s) := fun _ => by
  obtain ⟨hf, hm, -⟩ := resetEngineBody_heads p s
  rw [headsWait_false]
  exact ⟨by rw [hf]; exact nofun, Or.inl hm⟩

theorem randomFails_unmoved (s : State) : Unmoved s (randomFails s) := by
  have hflag : Unmoved s (raise Flag.randomFail { s with random := .failed }) := .contexts rfl rfl rfl rfl
  unfold randomFails
  dsimp only
  split
  · exact hflag.trans (failFilling_unmoved ..)
  · exact hflag

theorem startUpTestEnds_unmoved (b : Bool) (s : State) : Unmoved s (startUpTestEnds b s) := by
  unfold startUpTestEnds
  split_ifs
  · exact .contexts rfl rfl rfl rfl
  · exact randomFails_unmoved s
  · exact .refl s

theorem runningTestFails_unmoved (s : State) : Unmoved s (runningTestFails s) := by
  unfold runningTestFails
  split_ifs
  · exact randomFails_unmoved s
  · exact .refl s

theorem makeSlotRecord_unmoved (k : SlotIx) (e : EntryIx) (g : Generation) (dk tk : Key) (n : Nonce) (s : State) :
    Unmoved s (makeSlotRecord k e g dk tk n s) := by
  unfold makeSlotRecord
  split
  · exact failFilling_unmoved ..
  · exact readyAnswer_unmoved ..

theorem fillEnds_unmoved (dk tk : Key) (n : Nonce) (b : Bool) (s : State) : Unmoved s (fillEnds dk tk n b s) := by
  unfold fillEnds
  split
  · split_ifs
    · exact makeSlotRecord_unmoved ..
    · exact .contexts rfl rfl rfl rfl
  · exact .refl s

theorem wrappingEnds_unmoved (s : State) : Unmoved s (wrappingEnds s) := by
  unfold wrappingEnds
  split
  · exact makeSlotRecord_unmoved ..
  · exact .refl s

theorem openingEnds_unmoved (s : State) : Unmoved s (openingEnds s) := by
  unfold openingEnds
  split
  · split
    · exact failFilling_unmoved ..
    · split
      · exact failFilling_unmoved ..
      · exact readyAnswer_unmoved ..
  · exact .refl s

theorem zeroiseEntries_unmoved (s : State) : Unmoved s (zeroiseEntries s) := by
  have hentries : Unmoved s { s with wrapping := Vector.replicate 4 none } := .contexts rfl rfl rfl rfl
  unfold zeroiseEntries
  dsimp only
  split
  · exact hentries.trans (failFilling_unmoved ..)
  · exact hentries.trans (failFilling_unmoved ..)
  · exact hentries.trans (failFilling_unmoved ..)
  · exact hentries

theorem expireAutoLock_unmoved (s : State) : Unmoved s (expireAutoLock s) := by
  have hlocks (x : State) : Unmoved x (lockRanges x) := by
    rw [lockRanges_eq]
    exact .contexts rfl rfl rfl rfl
  have hstop : Unmoved s { s with autoLock := none } := .contexts rfl rfl rfl rfl
  exact ((hstop.trans (hlocks _)).trans (raise_unmoved ..)).trans (zeroiseEntries_unmoved _)

theorem time_unmoved (x : Time) (s : State) : Unmoved s { s with time := x } := .contexts rfl rfl rfl rfl

theorem expireIdle_rests (t : Tag) (s : State) : Rests s (expireIdle t s) := by
  unfold expireIdle
  split_ifs
  · exact heads_rests _ _
  · exact id

theorem autoLockDue_rests (s : State) : Rests s (autoLockDue s) := by
  unfold autoLockDue
  split
  · split_ifs
    · exact (expireAutoLock_unmoved s).rests.transmit
    · exact id
  · exact id

theorem drainDue_rests (s : State) : Rests s (drainDue s) := by
  unfold drainDue
  split
  · split_ifs
    · exact Rests.transmit (heads_rests _ _)
    · exact id
  · exact id

theorem idleDue_rests (t : Tag) (s : State) : Rests s (idleDue t s) := by
  unfold idleDue
  split
  · split_ifs
    · exact (expireIdle_rests t s).transmit
    · exact id
  · exact id

theorem foldl_rests {α : Type} {f : State → α → State} (h : ∀ s a, Rests s (f s a)) (l : List α) (s : State) :
    Rests s (l.foldl f s) := by
  induction l generalizing s with
  | nil => exact id
  | cons a as ih => exact (h s a).trans (ih _)

theorem tick_rests {s : State} (h : s.inReset = false) : headsWait (tick s) = false := by
  unfold tick
  rw [h]
  have hall : headsWait (allTags.foldl (fun s t => idleDue t s) (drainDue (autoLockDue (serveHeads s)))) = false :=
    foldl_rests (fun s t => idleDue_rests t s) _ _ (drainDue_rests _ (autoLockDue_rests _ (headsWait_serveHeads s)))
  generalize allTags.foldl (fun s t => idleDue t s) _ = u at hall ⊢
  exact (time_unmoved _ u).rests hall

/-- The event leaves no frame waiting at a head. -/
abbrev ComesToRest (o : Host.Outcome State Fault Refusal) : Prop := ∀ t, o = .next t → headsWait t = false

theorem comesToRest_atEvent {f : State → State} {s : State} (h : s.inReset = false) (hf : ∀ s, Rests s (f s)) :
    ComesToRest (atEvent f s) := by
  unfold atEvent
  rw [h]
  rintro _ ⟨⟩
  exact hf _ (headsWait_serveHeads s)

/-- What an UP port hears or receives comes to rest, and a DOWN port receives nothing. -/
theorem rests_up (p : PortId) {f : State → State} (h : ∀ s, Rests s (f s)) (s : State) :
    Rests s (if (s.port p).link = .down then s else f s) := by
  split_ifs
  · exact id
  · exact h s

theorem frameArrival_comes (p : PortId) (f : Frame) {s : State} (h : s.inReset = false) :
    ComesToRest (execFrameArrival p f s) :=
  comesToRest_atEvent h (rests_up p fun s => settle_rests s (receive p f s))

theorem hearFlow_rests (p : PortId) (f : Flow) (s : State) : Rests s (transmit (hearFlow p f s)) :=
  (putPort_unmoved p _ s).rests.transmit

theorem holdArrival_comes (p : PortId) {s : State} (h : s.inReset = false) : ComesToRest (execHoldArrival p s) :=
  comesToRest_atEvent h (rests_up p (hearFlow_rests p .hold))

theorem goArrival_comes (p : PortId) {s : State} (h : s.inReset = false) : ComesToRest (execGoArrival p s) :=
  comesToRest_atEvent h (rests_up p (hearFlow_rests p .go))

theorem laneJobStart_comes {s : State} (h : s.inReset = false) : ComesToRest (execLaneJobStart s) := by
  unfold execLaneJobStart
  rw [h]
  intro t ht
  rw [if_neg (by simp)] at ht
  unfold grantLane at ht
  split at ht
  · split at ht
    · cases ht
      exact headsWait_settle _
    · cases ht
  · cases ht
    exact headsWait_serveHeads s

theorem laneJobCompletion_comes (l : LaneIx) (s : State) :
    Rests s (match s.lanes[l] with | .running j => transmit (completeJob l j s) | _ => s) := by
  split
  · exact (completeJob_unmoved ..).rests.transmit
  · exact id

theorem handOff_comes (q : SectorQueue) (s : State) :
    Rests s (match handOffLane q s with | some (l, j, f) => transmit (enterOutput l j f q s) | none => s) := by
  split
  · exact (enterOutput_unmoved ..).rests.transmit
  · exact id

theorem bypassOffer_comes (s : State) :
    Rests s (match waitingBypass s with | some (q, r) => settle (takeBypass q r s) | none => s) := by
  split
  · exact settle_rests _ _
  · exact id

theorem idleExpiry_comes (t : Tag) (s : State) :
    Rests s (match s.contexts[t].deadline with
      | some d => if s.contexts[t].state = .active ∧ mayExpire (.idle t) d s
          then transmit (expireIdle t { s with time := expiryTime s.time d }) else s
      | none => s) := by
  split
  · split_ifs
    · next d _ _ => exact Rests.transmit ((time_unmoved (expiryTime s.time d) s).rests.trans (expireIdle_rests _ _))
    · exact id
  · exact id

theorem drainExpiry_comes (s : State) :
    Rests s (match runningDrain s with
      | some (k, d) => if mayExpire .drain d s
          then transmit (expireDrain k { s with time := expiryTime s.time d }) else s
      | none => s) := by
  split
  · split_ifs
    · exact Rests.transmit (heads_rests _ _)
    · exact id
  · exact id

theorem autoLockExpiry_comes (s : State) :
    Rests s (match s.autoLock with
      | some d => if mayExpire .autoLock d s
          then transmit (expireAutoLock { s with time := expiryTime s.time d }) else s
      | none => s) := by
  split
  · split_ifs
    · next d _ _ => exact Rests.transmit ((time_unmoved (expiryTime s.time d) s).trans (expireAutoLock_unmoved _)).rests
    · exact id
  · exact id

theorem powerOn_comes (s : State) : ComesToRest (execPowerOn s) := by
  rintro _ ⟨⟩
  rfl

theorem powerOnResetAsserted_comes (s : State) : ComesToRest (execPowerOnResetAsserted s) := by
  rintro _ ⟨⟩
  rfl

theorem exec_comesToRest {c : Instr} {s : State} (h : s.inReset = false)
    (hc : c ∉ [Instr.frontLinkDown, .frontLinkUp, .mediaLinkDown, .mediaLinkUp]) : ComesToRest (exec c s) := by
  cases c with
  | powerOn => exact powerOn_comes s
  | powerOnResetAsserted => exact powerOnResetAsserted_comes s
  | frontLinkDown | frontLinkUp | mediaLinkDown | mediaLinkUp => simp at hc
  | frameArrival p f => exact frameArrival_comes p f h
  | holdArrival p => exact holdArrival_comes p h
  | goArrival p => exact goArrival_comes p h
  | laneJobStart => exact laneJobStart_comes h
  | laneJobCompletion l => exact comesToRest_atEvent h (laneJobCompletion_comes l)
  | handOff q => exact comesToRest_atEvent h (handOff_comes q)
  | bypassOffer => exact comesToRest_atEvent h bypassOffer_comes
  | frontFrameSent => exact comesToRest_atEvent h fun s => (frontSent_unmoved s).rests.transmit
  | mediaFrameSent => exact comesToRest_atEvent h fun s => (mediaSent_unmoved s).rests.transmit
  | flowFrameSent p => exact comesToRest_atEvent h fun s => (flowSent_unmoved p s).rests.transmit
  | idleDeadlineExpiry t => exact comesToRest_atEvent h (idleExpiry_comes t)
  | drainTimerExpiry => exact comesToRest_atEvent h drainExpiry_comes
  | autoLockExpiry => exact comesToRest_atEvent h autoLockExpiry_comes
  | startUpTestComplete b => exact comesToRest_atEvent h fun s => (startUpTestEnds_unmoved b s).rests.transmit
  | runningTestFailure => exact comesToRest_atEvent h fun s => (runningTestFails_unmoved s).rests.transmit
  | fillEnd dk tk n b => exact comesToRest_atEvent h fun s => (fillEnds_unmoved dk tk n b s).rests.transmit
  | wrappedRecordMade => exact comesToRest_atEvent h fun s => (wrappingEnds_unmoved s).rests.transmit
  | recordOpeningEnd => exact comesToRest_atEvent h fun s => (openingEnds_unmoved s).rests.transmit
  | defineRange => exact comesToRest_atEvent h (directive_rests defineRangeBody_rests)
  | disableRange => exact comesToRest_atEvent h (directive_rests disableRangeBody_rests)
  | setLocks => exact comesToRest_atEvent h (directive_rests setLocksBody_rests)
  | setWrappingKey => exact comesToRest_atEvent h (directive_rests setWrappingKeyBody_rests)
  | clearWrappingKey => exact comesToRest_atEvent h (directive_rests clearWrappingKeyBody_rests)
  | generateKey => exact comesToRest_atEvent h (directive_rests generateKeyBody_rests)
  | installKey => exact comesToRest_atEvent h (directive_rests installKeyBody_rests)
  | rekeySlot => exact comesToRest_atEvent h (directive_rests rekeySlotBody_rests)
  | discardKey => exact comesToRest_atEvent h (directive_rests discardKeyBody_rests)
  | abandonTransfer => exact comesToRest_atEvent h (directive_rests abandonTransferBody_rests)
  | setLimits => exact comesToRest_atEvent h (directive_rests setLimitsBody_rests)
  | queryEngine => exact comesToRest_atEvent h (directive_rests fun _ s => answer_rests _ _ (.refl s))
  | queryRange => exact comesToRest_atEvent h (directive_rests queryRangeBody_rests)
  | querySlot => exact comesToRest_atEvent h (directive_rests querySlotBody_rests)
  | queryContext => exact comesToRest_atEvent h (directive_rests queryContextBody_rests)
  | queryLimits => exact comesToRest_atEvent h (directive_rests fun _ s => answer_rests _ _ (.refl s))
  | clearEvents => exact comesToRest_atEvent h (directive_rests clearEventsBody_rests)
  | resetEngine => exact comesToRest_atEvent h (directive_rests resetEngineBody_rests)
  | unknownDirective => exact comesToRest_atEvent h (directive_rests fun _ s => answer_rests _ _ (.refl s))

theorem step_comesToRest {s : State} (h : s.inReset = false)
    (hc : ∀ c ∈ s.pending.head?, c ∉ [Instr.frontLinkDown, .frontLinkUp, .mediaLinkDown, .mediaLinkUp]) :
    ComesToRest (step s) := by
  unfold step
  split
  · next c rest hp => exact exec_comesToRest h (hc c (by rw [hp]; rfl))
  · rintro _ ⟨⟩
    exact tick_rests h

/-! ### A link comes UP -/

theorem linkUp_unmoved {s t : State} (hc : ∃ c ∈ s.pending.head?, c = .frontLinkUp ∨ c = .mediaLinkUp)
    (h : step s = .next t) : Unmoved s t := by
  obtain ⟨c, hcs, hc⟩ := hc
  have hpend (rest : List Instr) : Unmoved s { s with pending := rest } := .contexts rfl rfl rfl rfl
  unfold step at h
  split at h
  · next c' rest hp =>
    rw [hp] at hcs
    obtain rfl := Option.some.inj hcs
    refine (hpend rest).trans ?_
    generalize ({ s with pending := rest } : State) = u at h ⊢
    rcases hc with rfl | rfl
    · change execFrontLinkUp u = _ at h
      unfold execFrontLinkUp at h
      cases h
      split_ifs
      · exact .refl u
      · have hup : Unmoved u { u with front := { u.front with link := .up }, autoLock := none } := .contexts rfl rfl rfl rfl
        exact hup.trans (transmit_unmoved _)
    · change execMediaLinkUp u = _ at h
      unfold execMediaLinkUp at h
      cases h
      split_ifs
      · exact .refl u
      · have hup : Unmoved u { u with media := { u.media with link := .up } } := .contexts rfl rfl rfl rfl
        exact hup.trans (transmit_unmoved _)
  · next hp =>
    rw [hp] at hcs
    cases hcs

theorem stepKeeps_headsLawful : StepKeeps HeadsLawful := stepKeeps_of_turn fun _ _ hturn h => h.turn hturn

end Sys2Proof.Machine

namespace Sys2Proof.Machine

/-- Settles O10: every turn keeps the law of the heads, and the heads are served, or unmoved, at the end of each event. -/
theorem headsComeToRest : Obligations.HeadsComeToRest :=
  ⟨stepKeeps_headsLawful,
    fun s t h hr hc hstep => atRest_of_lawful (stepKeeps_headsLawful s t h hstep) (step_comesToRest hr hc t hstep),
    fun _ _ h hc hstep => h.unmoved (linkUp_unmoved hc hstep), fun _ => heads_atRest⟩

end Sys2Proof.Machine
end

section
/-! PROOFS. One step of the part, the values after a reset, the mark test, and the ends of transmissions and of link
outages. -/

namespace Sys2Proof.Machine

/-! ### What serving the heads leaves alone -/

theorem takeOpen_inReset (q : Queued) (s : State) : (takeOpen q s).inReset = s.inReset := by
  unfold takeOpen
  split
  · rfl
  · exact (enterReporting_calm _ _).inReset

theorem disposeFront_inReset (q : Queued) (s : State) : (disposeFront q s).inReset = s.inReset := by
  have hpop := (popIntake_calm .front s).inReset
  unfold disposeFront
  dsimp only
  split_ifs
  · rw [takeOpen_inReset, hpop]
  · exact (endTransfer_calm _ _ _ (raise Flag.tagBusy _)).inReset.trans hpop
  · split
    · exact hpop
    · exact hpop
    · exact hpop
    · exact hpop
    · exact hpop
    · split
      · exact (endTransfer_calm ..).inReset.trans hpop
      · exact hpop

theorem deliver_inReset (t : Tag) (r : ReadStatus) (f : Frame) (s : State) : (deliver t r f s).inReset = s.inReset := by
  unfold deliver deliveryFlags raiseIf
  split_ifs <;> rfl

theorem disposeMedia_inReset (q : Queued) (s : State) : (disposeMedia q s).inReset = s.inReset := by
  have hpop := (popIntake_calm .media s).inReset
  rcases disposeMedia_cases q s with h | ⟨f, h⟩ | ⟨t, e, fail, h⟩ | ⟨-, -, h⟩ <;> rw [h]
  · exact hpop
  · exact hpop
  · exact (endTransfer_calm ..).inReset.trans hpop
  · unfold judgeHead
    dsimp only
    split
    · rfl
    · split_ifs
      · exact ((finishTransfer_calm _ _).inReset.trans (deliver_inReset ..)).trans hpop
      · rfl

theorem frontHead_inReset (n : Nat) (s : State) : (frontHead n s).inReset = s.inReset := by
  induction n generalizing s with
  | zero => rfl
  | succ n ih =>
    unfold frontHead
    split
    · rfl
    · split_ifs
      · rfl
      · rw [ih, disposeFront_inReset]

theorem mediaHead_inReset (n : Nat) (s : State) : (mediaHead n s).inReset = s.inReset := by
  induction n generalizing s with
  | zero => rfl
  | succ n ih =>
    unfold mediaHead
    split_ifs
    · rfl
    · split
      · rfl
      · rw [ih, disposeMedia_inReset]

theorem heads_inReset (s : State) : (heads s).inReset = s.inReset :=
  (mediaHead_inReset _ _).trans (frontHead_inReset _ _)

theorem settle_inReset (s : State) : (settle s).inReset = s.inReset := by
  rw [settle, transmit_inReset, heads_inReset]

/-- A command is one event outside the reset input. -/
def IsEvent (o : State → Host.Outcome State Fault Refusal) : Prop := ∃ f : State → State, ∀ s, o s = atEvent f s

/-- Every command is such an event but for power, the link reports and the grant of a lane. -/
theorem exec_isEvent {c : Instr}
    (hc : c ∉ [Instr.powerOn, .powerOnResetAsserted, .frontLinkDown, .frontLinkUp, .mediaLinkDown, .mediaLinkUp,
      .laneJobStart]) : IsEvent (exec c) := by
  cases c with
  | powerOn | powerOnResetAsserted | frontLinkDown | frontLinkUp | mediaLinkDown | mediaLinkUp | laneJobStart =>
    simp at hc
  | frameArrival p f => exact ⟨_, fun s => by delta exec execFrameArrival; rfl⟩
  | holdArrival p => exact ⟨_, fun s => by delta exec execHoldArrival; rfl⟩
  | goArrival p => exact ⟨_, fun s => by delta exec execGoArrival; rfl⟩
  | laneJobCompletion l => exact ⟨_, fun s => by delta exec execLaneJobCompletion; rfl⟩
  | handOff q => exact ⟨_, fun s => by delta exec execHandOff; rfl⟩
  | bypassOffer => exact ⟨_, fun s => by delta exec execBypassOffer; rfl⟩
  | frontFrameSent => exact ⟨_, fun s => by delta exec execFrontFrameSent; rfl⟩
  | mediaFrameSent => exact ⟨_, fun s => by delta exec execMediaFrameSent; rfl⟩
  | flowFrameSent p => exact ⟨_, fun s => by delta exec execFlowFrameSent; rfl⟩
  | idleDeadlineExpiry t => exact ⟨_, fun s => by delta exec execIdleDeadlineExpiry; rfl⟩
  | drainTimerExpiry => exact ⟨_, fun s => by delta exec execDrainTimerExpiry; rfl⟩
  | autoLockExpiry => exact ⟨_, fun s => by delta exec execAutoLockExpiry; rfl⟩
  | startUpTestComplete passed => exact ⟨_, fun s => by delta exec execStartUpTestComplete; rfl⟩
  | runningTestFailure => exact ⟨_, fun s => by delta exec execRunningTestFailure; rfl⟩
  | fillEnd => exact ⟨_, fun s => by delta exec execFillEnd; rfl⟩
  | wrappedRecordMade => exact ⟨_, fun s => by delta exec execWrappedRecordMade; rfl⟩
  | recordOpeningEnd => exact ⟨_, fun s => by delta exec execRecordOpeningEnd; rfl⟩
  | defineRange => exact ⟨_, fun s => by delta exec execDefineRange; rfl⟩
  | disableRange => exact ⟨_, fun s => by delta exec execDisableRange; rfl⟩
  | setLocks => exact ⟨_, fun s => by delta exec execSetLocks; rfl⟩
  | setWrappingKey => exact ⟨_, fun s => by delta exec execSetWrappingKey; rfl⟩
  | clearWrappingKey => exact ⟨_, fun s => by delta exec execClearWrappingKey; rfl⟩
  | generateKey => exact ⟨_, fun s => by delta exec execGenerateKey; rfl⟩
  | installKey => exact ⟨_, fun s => by delta exec execInstallKey; rfl⟩
  | rekeySlot => exact ⟨_, fun s => by delta exec execRekeySlot; rfl⟩
  | discardKey => exact ⟨_, fun s => by delta exec execDiscardKey; rfl⟩
  | abandonTransfer => exact ⟨_, fun s => by delta exec execAbandonTransfer; rfl⟩
  | setLimits => exact ⟨_, fun s => by delta exec execSetLimits; rfl⟩
  | queryEngine => exact ⟨_, fun s => by delta exec execQueryEngine; rfl⟩
  | queryRange => exact ⟨_, fun s => by delta exec execQueryRange; rfl⟩
  | querySlot => exact ⟨_, fun s => by delta exec execQuerySlot; rfl⟩
  | queryContext => exact ⟨_, fun s => by delta exec execQueryContext; rfl⟩
  | queryLimits => exact ⟨_, fun s => by delta exec execQueryLimits; rfl⟩
  | clearEvents => exact ⟨_, fun s => by delta exec execClearEvents; rfl⟩
  | resetEngine => exact ⟨_, fun s => by delta exec execResetEngine; rfl⟩
  | unknownDirective => exact ⟨_, fun s => by delta exec execUnknownDirective; rfl⟩

/-- Where a frame waits at a head, the state in which the heads have taken theirs is served already. -/
theorem serveHeads_settle {s : State} (hw : headsWait s = true) : serveHeads (settle s) = serveHeads s := by
  rw [serveHeads_awake (headsWait_settle s), serveHeads, hw]
  rfl

theorem atEvent_settle (f : State → State) {s : State} (hr : s.inReset = false) (hw : headsWait s = true) :
    atEvent f s = atEvent f (settle s) := by
  simp only [atEvent, settle_inReset, hr, serveHeads_settle hw, Bool.false_eq_true, if_false]

theorem execLaneJobStart_settle {s : State} (hr : s.inReset = false) (hw : headsWait s = true) :
    execLaneJobStart s = execLaneJobStart (settle s) := by
  simp only [execLaneJobStart, settle_inReset, hr, serveHeads_settle hw, Bool.false_eq_true, if_false]

theorem tick_settle {s : State} (hr : s.inReset = false) (hw : headsWait s = true) : tick s = tick (settle s) := by
  rw [tick_eq hr, tick_eq ((settle_inReset s).trans hr), expiredAll, expiredAll, serveHeads_settle hw]

theorem exec_settle {c : Instr} {s : State}
    (hc : c ∉ [Instr.powerOn, .powerOnResetAsserted, .frontLinkDown, .frontLinkUp, .mediaLinkDown, .mediaLinkUp])
    (hr : s.inReset = false) (hw : headsWait s = true) : exec c s = exec c (settle s) := by
  by_cases hl : c = .laneJobStart
  · subst hl
    exact execLaneJobStart_settle hr hw
  · obtain ⟨f, hf⟩ := exec_isEvent (c := c) (by simp_all)
    rw [hf, hf, atEvent_settle f hr hw]

theorem tick_held {s : State} (h : s.inReset = true) : tick s = s := by
  rw [tick, h]
  rfl

theorem tick_nothing_due {s : State} (h : Awake s) (hn : NoneDue s) : tick s = { s with time := s.time + 1 } := by
  obtain ⟨hal, hdr, hid⟩ := forall_timer.mp hn
  rw [tick_eq h.1, expiredAll, serveHeads_awake h.2, autoLockDue_none hal, drainDue_none hdr,
    foldl_unchanged _ _ _ fun t _ => idleDue_none (hid t)]

/-! ### The reset input -/

theorem exec_held {c : Instr} {s : State} (h : s.inReset = true) (hp : c ≠ .powerOn) (ha : c ≠ .powerOnResetAsserted) :
    exec c s = .next s := by
  by_cases hc : c ∈ [Instr.powerOn, .powerOnResetAsserted, .frontLinkDown, .frontLinkUp, .mediaLinkDown, .mediaLinkUp,
      .laneJobStart]
  · simp only [List.mem_cons, hp, ha, List.not_mem_nil, or_false, false_or] at hc
    rcases hc with rfl | rfl | rfl | rfl | rfl
    · simp only [exec, execFrontLinkDown, h, true_or, if_true]
    · simp only [exec, execFrontLinkUp, h, true_or, if_true]
    · simp only [exec, execMediaLinkDown, h, true_or, if_true]
    · simp only [exec, execMediaLinkUp, h, true_or, if_true]
    · simp only [exec, execLaneJobStart, h, if_true]
  · obtain ⟨f, hf⟩ := exec_isEvent hc
    rw [hf, atEvent, h]
    rfl

/-! ### The laws after a reset -/

theorem reset_slots (k : SlotIx) : State.reset.slots[k] = SlotRecord.reset := by
  simp [-Fin.getElem_fin, State.reset, Fin.getElem_fin]

theorem reset_contexts (t : Tag) : State.reset.contexts[t] = Context.free := by
  simp [State.reset, Fin.getElem_fin]

theorem booksAt_reset (strict : Prop) : Books strict State.reset := Books.reset rfl rfl rfl rfl rfl

theorem keysAt_reset (strict : Prop) : Keys strict none State.reset := Keys.reset rfl rfl rfl (booksAt_reset strict) rfl

theorem reset_noDeadline (x : TimerId) : State.reset.deadlineOf x = none := by
  cases x with
  | autoLock => rfl
  | drain => rfl
  | idle t =>
    have hfree := reset_contexts t
    simp only [State.deadlineOf, hfree]
    rfl

theorem timersInTime_reset : TimersInTime State.reset :=
  ⟨by decide, fun x d hd => by rw [reset_noDeadline] at hd; cases hd⟩

theorem atRest_reset : AtRest State.reset := ⟨by simp [State.reset], by simp [State.reset], by simp [State.reset]⟩

theorem transmittersBusy_reset : TransmittersBusy State.reset := ⟨fun h => (by cases h), fun h => (by cases h)⟩

/-! ### The mark test -/

theorem markTest_flowing {high low depth : Nat} {x : Port} (h : ∃ f, x.sending = some (.flow f)) :
    markTest high low depth x = x := by
  rw [markTest, (flowInTransmission_iff x).mpr h]
  rfl

theorem dueFlow_hold (o : Option Flow) : dueFlow .hold o = if o = some .go then none else some .hold := by
  rcases o with _ | _ | _ <;> rfl

theorem dueFlow_go (o : Option Flow) : dueFlow .go o = if o = some .hold then none else some .go := by
  rcases o with _ | _ | _ <;> rfl

section
variable {high low depth : Nat} {x : Port} (hs : ∀ f, x.sending ≠ some (.flow f))
include hs

theorem flowInTransmission_free : flowInTransmission x = false := by
  rw [Bool.eq_false_iff, Ne, flowInTransmission_iff]
  exact fun ⟨f, hf⟩ => hs f hf

theorem markTest_released (hh : x.held = false) :
    markTest high low depth x =
      if high ≤ depth then { x with held := true, pendingFlow := if x.pendingFlow = some .go then none else some .hold }
      else x := by
  simp [markTest, flowInTransmission_free hs, hh, dueFlow_hold]

theorem markTest_held (hh : x.held = true) :
    markTest high low depth x =
      if depth ≤ low then { x with held := false, pendingFlow := if x.pendingFlow = some .hold then none else some .go }
      else x := by
  simp [markTest, flowInTransmission_free hs, hh, dueFlow_go]

end

/-! ### The ends of transmissions -/

theorem exec_frontFrameSent {s : State} (h : Awake s) : exec .frontFrameSent s = .next (transmit (frontSent s)) :=
  atEvent_awake (f := fun s => transmit (frontSent s)) h

theorem exec_mediaFrameSent {s : State} (h : Awake s) : exec .mediaFrameSent s = .next (transmit (mediaSent s)) :=
  atEvent_awake (f := fun s => transmit (mediaSent s)) h

theorem exec_flowFrameSent (p : PortId) {s : State} (h : Awake s) :
    exec (.flowFrameSent p) s = .next (transmit (flowSent p s)) :=
  atEvent_awake (f := fun s => transmit (flowSent p s)) h

theorem frontSent_report {s : State} {f : Frame} {rest : List Frame} (hs : s.front.sending = some .rpq)
    (hr : s.rpq = f :: rest) :
    frontSent s = reportLeaves f { s with front := { s.front with sending := none, line := some f }, rpq := rest } := by
  simp only [frontSent, hs, hr]
  rfl

theorem frontSent_sector {s : State} {f : Frame} {rest : List Frame} (hs : s.front.sending = some .fsq)
    (hr : s.fsq = f :: rest) :
    frontSent s = { s with front := { s.front with sending := none, line := some f }, fsq := rest } := by
  simp only [frontSent, hs, hr]
  rfl

theorem frontSent_nothing {s : State} (hs : s.front.sending = none) : frontSent s = s := by rw [frontSent, hs]

theorem reportLeaves_completion {f : Frame} {s : State} (hk : f.header.kind = Kind.completion)
    (hc : s.contexts[frameTag f].state = .reporting) :
    reportLeaves f s = { s with contexts := s.contexts.set (frameTag f) Context.free } := by
  rw [reportLeaves, if_pos hk, if_pos hc]
  rfl

theorem reportLeaves_response {f : Frame} {s : State} (hk : f.header.kind = Kind.response) :
    reportLeaves f s = { s with drq := s.drq.tail } := by
  rw [reportLeaves, if_neg]
  rw [hk]
  decide

theorem mediaSent_sector {s : State} {f : Frame} {rest : List Frame} (hs : s.media.sending = some .moq)
    (hr : s.moq = f :: rest) :
    mediaSent s = { s with media := { s.media with sending := none, line := some f }, moq := rest } := by
  simp only [mediaSent, hs, hr]
  rfl

theorem mediaSent_nothing {s : State} (hs : s.media.sending = none) : mediaSent s = s := by rw [mediaSent, hs]

theorem flowSent_flow {p : PortId} {s : State} {f : Flow} (hs : (s.port p).sending = some (.flow f)) :
    flowSent p s = State.testedAt p (s.intake p).length (putPort p
      { s.port p with
        sending := none, line := some (flowFrame f),
        pendingFlow := if (s.port p).pendingFlow = some f then none else (s.port p).pendingFlow } s) := by
  unfold flowSent
  rw [hs]
  cases p <;> rfl

theorem flowSent_nothing {p : PortId} {s : State} (hs : (s.port p).sending = none) : flowSent p s = s := by
  rw [flowSent, hs]

/-! ### The ports -/

/-- Both ports are the same in two states. -/
structure SamePorts (s t : State) : Prop where
  front : t.front = s.front
  media : t.media = s.media

theorem SamePorts.refl (s : State) : SamePorts s s := ⟨rfl, rfl⟩

theorem SamePorts.trans {s t u : State} (h : SamePorts s t) (h' : SamePorts t u) : SamePorts s u :=
  ⟨h'.front.trans h.front, h'.media.trans h.media⟩

theorem SamePorts.foldl {α : Type} {f : State → α → State} (h : ∀ s a, SamePorts s (f s a)) (l : List α) (s : State) :
    SamePorts s (l.foldl f s) := by
  induction l generalizing s with
  | nil => exact .refl s
  | cons a l ih => exact (h s a).trans (ih (f s a))

theorem answer_ports (r : Result) (data : Bytes) (s : State) : SamePorts s (answer r data s) := by
  rw [answer_frame]
  exact ⟨rfl, rfl⟩

theorem completeDrain_ports (k : SlotIx) (goal : DrainGoal) (s : State) : SamePorts s (completeDrain k goal s) := by
  have hslot : SamePorts s (emptySlot k s) := ⟨rfl, rfl⟩
  unfold completeDrain
  split
  · exact hslot.trans (answer_ports ..)
  · split_ifs
    · exact hslot.trans (answer_ports ..)
    · exact ⟨rfl, rfl⟩

theorem leaveDrain_ports (t : Tag) (s : State) : SamePorts s (leaveDrain t s) := by
  have hslot (k : SlotIx) (r : SlotRecord) : SamePorts s (putSlot k r s) := ⟨rfl, rfl⟩
  unfold leaveDrain
  split
  · dsimp only
    split_ifs
    · exact (hslot _ _).trans (completeDrain_ports ..)
    · exact hslot _ _
    · exact .refl s
  · exact .refl s

theorem enterReporting_ports (t : Tag) (s : State) : SamePorts s (enterReporting t s) := by
  have h := leaveDrain_ports t
    { putContext t { s.contexts[t] with state := .reporting, deadline := none } s with
      rpq := s.rpq ++ [completionFrame t { s.contexts[t] with state := .reporting, deadline := none }] }
  exact ⟨h.front, h.media⟩

theorem freeContext_ports (t : Tag) (s : State) : SamePorts s (freeContext t s) :=
  ⟨(leaveDrain_ports t (putContext t Context.free s)).front, (leaveDrain_ports t (putContext t Context.free s)).media⟩

theorem leaveEnding_ports (t : Tag) (s : State) : SamePorts s (leaveEnding t s) := by
  unfold leaveEnding
  split_ifs
  · exact freeContext_ports t s
  · exact enterReporting_ports t s
  · exact .refl s

theorem discardOutput_ports (l : LaneIx) (j : Job) (s : State) : SamePorts s (discardOutput l j s) :=
  have hlane : SamePorts s (releaseLane l j s) := ⟨rfl, rfl⟩
  hlane.trans (leaveEnding_ports ..)

theorem discardHeldRead_ports (t : Tag) (l : LaneIx) (s : State) : SamePorts s (discardHeldRead t l s) := by
  unfold discardHeldRead
  split
  · split_ifs
    · exact discardOutput_ports ..
    · exact .refl s
  · exact .refl s

theorem discardHeldReads_ports (t : Tag) (s : State) : SamePorts s (discardHeldReads t s) :=
  .foldl (fun s l => discardHeldRead_ports t l s) _ s

theorem discardHeldWrite_ports (l : LaneIx) (s : State) : SamePorts s (discardHeldWrite l s) := by
  unfold discardHeldWrite
  split
  · exact discardOutput_ports ..
  · exact .refl s

/-! ### The links -/

/-- The states of the two links. -/
def State.links (s : State) : Link × Link := (s.front.link, s.media.link)

theorem SamePorts.links {s t : State} (h : SamePorts s t) : t.links = s.links := by
  rw [State.links, State.links, h.front, h.media]

theorem links_iff {s : State} {a b : Link} : s.links = (a, b) ↔ s.front.link = a ∧ s.media.link = b := Prod.mk_inj

theorem withFiq_links (q : List Queued) (s : State) : State.links { s with fiq := q } = s.links := rfl

/-- A fold keeps what each of its steps keeps. -/
theorem foldl_keeps {α β γ : Type} (g : α → γ) {f : α → β → α} (h : ∀ a b, g (f a b) = g a) (l : List β) (a : α) :
    g (l.foldl f a) = g a := by
  induction l generalizing a with
  | nil => rfl
  | cons b l ih => exact (ih (f a b)).trans (h a b)

theorem markTest_link (high low depth : Nat) (x : Port) : (markTest high low depth x).link = x.link := by
  rw [markTest_frame]

theorem popIntake_links (p : PortId) (s : State) : (popIntake p s).links = s.links := by
  cases p
  · exact congrArg (·, s.media.link) (markTest_link ..)
  · exact congrArg (s.front.link, ·) (markTest_link ..)

theorem discardFrontHead_links (t : Tag) (s : State) : (discardFrontHead t s).links = s.links := by
  unfold discardFrontHead
  split_ifs
  · exact popIntake_links ..
  · rfl

theorem discardMediaHead_links (t : Tag) (s : State) : (discardMediaHead t s).links = s.links := by
  unfold discardMediaHead
  split_ifs
  · exact popIntake_links ..
  · rfl

theorem enterEnding_links (t : Tag) (c : Context) (s : State) : (enterEnding t c s).links = s.links :=
  ((leaveEnding_ports _ _).links.trans (discardHeldReads_ports _ _).links).trans
    ((discardMediaHead_links _ _).trans (discardFrontHead_links _ _))

theorem endTransfer_links (t : Tag) (e : Ending) (fail : Option Nat) (s : State) :
    (endTransfer t e fail s).links = s.links := by
  unfold endTransfer
  split_ifs
  · exact enterEnding_links ..
  · rfl

theorem frontLossContext_links (t : Tag) (s : State) : (frontLossContext t s).links = s.links := by
  unfold frontLossContext
  dsimp only
  split
  · rfl
  · exact enterEnding_links ..
  · exact enterEnding_links ..
  · exact (leaveEnding_ports _ _).links
  · exact (freeContext_ports _ _).links

theorem discardWaitingSector_links (s : State) : (discardWaitingSector s).links = s.links := by
  unfold discardWaitingSector
  split
  · split_ifs
    · exact popIntake_links ..
    · rfl
  · rfl

theorem frontLoss_links (s : State) : (frontLoss s).links = (.down, s.media.link) := by
  rw [frontLoss_eq, foldl_keeps State.links fun s t => frontLossContext_links t s]
  rfl

theorem mediaCut_links (s : State) : (mediaCut s).links = (s.front.link, .down) := by
  rw [mediaCut, discardWaitingSector_links]
  rfl

theorem mediaEnds_links (s : State) : (mediaEnds s).links = s.links := by
  rw [mediaEnds, foldl_keeps State.links fun s l => (discardHeldWrite_ports l s).links,
    foldl_keeps State.links fun s t => endTransfer_links t _ _ s]

theorem mediaLoss_links (s : State) : (mediaLoss s).links = (s.front.link, .down) := by
  rw [mediaLoss_eq, withFiq_links, mediaEnds_links, withFiq_links, mediaCut_links]

theorem transmit_links (s : State) : (transmit s).links = s.links :=
  have hf : (transmit s).front.link = s.front.link := by rw [transmit_front]
  have hm : (transmit s).media.link = s.media.link := by rw [transmit_media]
  links_iff.mpr ⟨hf, hm⟩

end Sys2Proof.Machine

namespace Sys2Proof.Machine

/-- Settles O1: the events run on the state whose heads are served, so they run the same on a state served before. -/
theorem stepRunsTheFrontCommand : Obligations.StepRunsTheFrontCommand :=
  ⟨fun _ _ _ => rfl, fun _ _ => exec_settle, fun _ => tick_settle, headsWait_settle,
    fun s h => by rw [step, h], fun _ => tick_held, fun _ => tick_nothing_due⟩

/-- Settles O3, by the commands. -/
theorem resetInputHoldsThePart : Obligations.ResetInputHoldsThePart :=
  fun _ => ⟨rfl, rfl, fun h _ => exec_held h⟩

/-- Settles O4, law by law. -/
theorem resetMeetsEveryLaw : Obligations.ResetMeetsEveryLaw :=
  ⟨attention_reset false [], rangesDisjoint_reset, by decide, (laneAccounts_iff _).mpr (booksAt_reset _),
    (Keys.slotsAgree_iff _).mpr (keysAt_reset _), HeadsLawful.reset rfl rfl rfl, atRest_reset, by decide,
    (reportsOwed_iff _).mpr (Owed.reset rfl rfl rfl (by simp [State.reset])), transmittersBusy_reset, timersInTime_reset,
    (keysHeld_iff _).mpr ⟨rangesDisjoint_reset, booksAt_reset _, keysAt_reset _⟩,
    (holdListsAgree_iff _).mpr (booksAt_reset _)⟩

/-- Settles O2, field by field. -/
theorem resetValues : Obligations.ResetValues := by
  refine ⟨rfl, rfl, rfl, rfl, rfl, fun p => ?_, ⟨rfl, rfl, rfl, rfl, rfl, rfl, rfl⟩, by decide +kernel, reset_slots,
    by decide +kernel, rfl, reset_contexts, by decide +kernel, rfl, rfl, rfl, rfl, rfl⟩
  cases p <;> exact ⟨rfl, rfl, rfl, rfl, rfl, rfl⟩

/-- Settles O24: the test by the own hold. -/
theorem markTestRule : Obligations.MarkTestRule := by
  refine fun high low depth x => ⟨markTest_flowing, fun hs => ⟨fun hh hd => ?_, fun hh hd => ?_, fun hh hd => ?_, fun hh hd => ?_⟩⟩
  · rw [markTest_released hs hh, if_pos hd]
  · rw [markTest_held hs hh, if_pos hd]
  · rw [markTest_released hs hh, if_neg (by omega)]
  · rw [markTest_held hs hh, if_neg (by omega)]

/-- Settles O27: what the reports do by the state that the port holds. -/
theorem linkReportsTaken : Obligations.LinkReportsTaken := by
  intro s hr
  have hne : ¬ Link.up = .down := nofun
  have hf (h : s.front.link = .up) : exec .frontLinkDown s = .next (transmit (frontLoss s)) := by
    simp only [exec, execFrontLinkDown, hr, h, hne, Bool.false_eq_true, or_self, if_false]
  have hm (h : s.media.link = .up) : exec .mediaLinkDown s = .next (transmit (mediaLoss s)) := by
    simp only [exec, execMediaLinkDown, hr, h, hne, Bool.false_eq_true, or_self, if_false]
  refine ⟨fun h => ?_, fun h => ?_, fun h => ⟨_, hf h, ?_⟩, fun h => ⟨_, hm h, ?_⟩, fun h => ?_, fun h => ?_, fun h => ?_,
    fun h => ?_⟩
  · simp only [exec, execFrontLinkUp, hr, h, Bool.false_eq_true, reduceCtorEq, or_self, if_false]
  · simp only [exec, execMediaLinkUp, hr, h, Bool.false_eq_true, reduceCtorEq, or_self, if_false]
  · exact links_iff.mp ((transmit_links _).trans (frontLoss_links s))
  · exact (links_iff.mp ((transmit_links _).trans (mediaLoss_links s))).symm
  · simp only [exec, execFrontLinkUp, h, or_true, if_true]
  · simp only [exec, execMediaLinkUp, h, or_true, if_true]
  · simp only [exec, execFrontLinkDown, h, or_true, if_true]
  · simp only [exec, execMediaLinkDown, h, or_true, if_true]

/-- Settles O26: what each end of a transmission takes from its queue. -/
theorem transmissionsEnd : Obligations.TransmissionsEnd := by
  refine fun s h => ⟨fun f rest hs hr hk hc => ?_, fun f rest hs hr hk => ?_, fun f rest hs hr => ?_,
    fun f rest hs hr => ?_, fun p f hs => ?_, fun hf hm => ⟨?_, ?_, fun p => ?_⟩⟩
  · rw [exec_frontFrameSent h, frontSent_report hs hr, reportLeaves_completion hk (by exact hc)]
  · rw [exec_frontFrameSent h, frontSent_report hs hr, reportLeaves_response hk]
  · rw [exec_frontFrameSent h, frontSent_sector hs hr]
  · rw [exec_mediaFrameSent h, mediaSent_sector hs hr]
  · rw [exec_flowFrameSent p h, flowSent_flow hs]
  · rw [exec_frontFrameSent h, frontSent_nothing hf]
  · rw [exec_mediaFrameSent h, mediaSent_nothing hm]
  · rw [exec_flowFrameSent p h, flowSent_nothing (by cases p <;> assumption)]

end Sys2Proof.Machine
end

section
/-! PROOFS. The directives: which command executes which, the checks common to all, and the directives on ranges, locks,
wrapping keys, queries and the engine reset. -/

namespace Sys2Proof.Machine

/-! ### Rows, commands and catalogue entries -/

/-- The command of a row of the table of directives. -/
def DirectiveRow.command : DirectiveRow → Instr
  | .defineRange => .defineRange
  | .disableRange => .disableRange
  | .setLocks => .setLocks
  | .setWrappingKey => .setWrappingKey
  | .clearWrappingKey => .clearWrappingKey
  | .generateKey => .generateKey
  | .installKey => .installKey
  | .rekeySlot => .rekeySlot
  | .discardKey => .discardKey
  | .abandonTransfer => .abandonTransfer
  | .setLimits => .setLimits
  | .queryEngine => .queryEngine
  | .queryRange => .queryRange
  | .querySlot => .querySlot
  | .queryContext => .queryContext
  | .queryLimits => .queryLimits
  | .clearEvents => .clearEvents
  | .resetEngine => .resetEngine
  | .unknown => .unknownDirective

/-- The catalogue entry of a row. -/
def DirectiveRow.body : DirectiveRow → Bytes → State → State
  | .defineRange => defineRangeBody
  | .disableRange => disableRangeBody
  | .setLocks => setLocksBody
  | .setWrappingKey => setWrappingKeyBody
  | .clearWrappingKey => clearWrappingKeyBody
  | .generateKey => generateKeyBody
  | .installKey => installKeyBody
  | .rekeySlot => rekeySlotBody
  | .discardKey => discardKeyBody
  | .abandonTransfer => abandonTransferBody
  | .setLimits => setLimitsBody
  | .queryEngine => queryEngineBody
  | .queryRange => queryRangeBody
  | .querySlot => querySlotBody
  | .queryContext => queryContextBody
  | .queryLimits => queryLimitsBody
  | .clearEvents => clearEventsBody
  | .resetEngine => resetEngineBody
  | .unknown => unknownBody

theorem exec_command (r : DirectiveRow) (s : State) :
    exec r.command s = atEvent (fun s => transmit (beginDirective r r.body s)) s := by
  cases r <;> rfl

theorem exec_awake (r : DirectiveRow) {s : State} (h : Awake s) :
    exec r.command s = .next (transmit (beginDirective r r.body s)) := by
  rw [exec_command, atEvent_awake h]

/-- A directive that passes the common checks runs its catalogue entry (R138, R140). -/
theorem exec_ready (r : DirectiveRow) {code len : Nat} {done rest : List DrqEntry} {e : DrqEntry} {s : State}
    (h : Ready code len done e rest s) (hr : directiveRow e.frame = r) (hl : directiveLength r = some len) :
    exec r.command s = .next (transmit (r.body e.frame.payload s)) := by
  rw [exec_awake r h.1, beginDirective_of_ready h hr hl]

/-- A directive that fails a common check is answered by it (R140). -/
theorem exec_refused (r : DirectiveRow) {done rest : List DrqEntry} {e : DrqEntry} {s : State} (h : Awake s)
    (hdu : s.du = none) (hn : Next done e rest s) (hr : directiveRow e.frame = r)
    (hbad : e.damaged = true ∨ directiveLength r ≠ some (payloadLength e.frame)) :
    exec r.command s =
      .next (transmit (s.answered (if e.damaged = true then .damaged else .badParam) [] done e rest)) := by
  rw [exec_awake r h, beginDirective_refused hdu hn hr hbad]

/-- A command that is not the next directive's does nothing (log entry 2). -/
theorem exec_other (r : DirectiveRow) {done rest : List DrqEntry} {e : DrqEntry} {s : State} (h : Awake s)
    (hn : Next done e rest s) (hr : directiveRow e.frame ≠ r) : exec r.command s = .next (transmit s) := by
  rw [exec_awake r h, beginDirective_other hn hr]

/-- While the unit executes, or has nothing to execute, no directive begins (log entry 2). -/
theorem exec_nothing (r : DirectiveRow) {s : State} (h : Awake s)
    (hn : s.du ≠ none ∨ ∀ e ∈ s.drq, e.executed = true) : exec r.command s = .next (transmit s) := by
  rw [exec_awake r h, beginDirective_nothing (hn.imp_right firstUnexecuted_none)]

/-! ### The row of a directive (Table 11-4) -/

/-- The code of a row's directive: 12 for every view of QUERY, and 0 for none. -/
def DirectiveRow.code : DirectiveRow → Nat
  | .defineRange => 1
  | .disableRange => 2
  | .setLocks => 3
  | .setWrappingKey => 4
  | .clearWrappingKey => 5
  | .generateKey => 6
  | .installKey => 7
  | .rekeySlot => 8
  | .discardKey => 9
  | .abandonTransfer => 10
  | .setLimits => 11
  | .queryEngine | .queryRange | .querySlot | .queryContext | .queryLimits => 12
  | .clearEvents => 13
  | .resetEngine => 14
  | .unknown => 0

/-- The row of each view. -/
def viewRow : Nat → DirectiveRow
  | 0 => .queryEngine
  | 1 => .queryRange
  | 2 => .querySlot
  | 3 => .queryContext
  | 4 => .queryLimits
  | _ => .unknown

theorem queryRow_eq (p : Bytes) : queryRow p = if p.length < 2 then .unknown else viewRow (byteAt p 1).toNat := by
  rcases p with _ | ⟨_, _ | ⟨v, p⟩⟩
  · rfl
  · rfl
  · rw [if_neg (by simp)]
    rfl

theorem viewRow_code (v : Nat) : viewRow v = .unknown ∨ (viewRow v).code = 12 := by
  unfold viewRow
  split <;> simp [DirectiveRow.code]

theorem queryRow_code (p : Bytes) : queryRow p = .unknown ∨ (queryRow p).code = 12 := by
  rw [queryRow_eq]
  split_ifs
  · exact .inl rfl
  · exact viewRow_code _

theorem viewRow_unknown {v : Nat} : viewRow v = .unknown ↔ 4 < v := by
  unfold viewRow
  split
  case h_6 h0 h1 h2 h3 h4 =>
    refine iff_of_true rfl ?_
    by_contra hv
    interval_cases v <;> contradiction
  all_goals exact iff_of_false nofun (by omega)

/-- The row of each code, for a payload (Table 11-4). -/
def codeRow (p : Bytes) : Nat → DirectiveRow
  | 1 => .defineRange
  | 2 => .disableRange
  | 3 => .setLocks
  | 4 => .setWrappingKey
  | 5 => .clearWrappingKey
  | 6 => .generateKey
  | 7 => .installKey
  | 8 => .rekeySlot
  | 9 => .discardKey
  | 10 => .abandonTransfer
  | 11 => .setLimits
  | 12 => queryRow p
  | 13 => .clearEvents
  | 14 => .resetEngine
  | _ => .unknown

theorem directiveRow_eq (f : Frame) : directiveRow f = codeRow f.payload (byteAt f.payload 0).toNat := rfl

theorem codeRow_code (p : Bytes) (n : Nat) : codeRow p n = .unknown ∨ (codeRow p n).code = n := by
  unfold codeRow
  split
  case h_12 => exact queryRow_code p
  case h_15 => exact .inl rfl
  all_goals exact .inr rfl

theorem codeRow_unknown (p : Bytes) (n : Nat) :
    codeRow p n = .unknown ↔ n = 0 ∨ 14 < n ∨ n = 12 ∧ queryRow p = .unknown := by
  unfold codeRow
  split
  case h_12 => simp
  case h_15 =>
    refine iff_of_true rfl ?_
    by_contra hn
    have hn0 : n ≠ 0 := fun h0 => hn (.inl h0)
    have hn14 : n ≤ 14 := not_lt.mp fun h14 => hn (.inr (.inl h14))
    interval_cases n <;> contradiction
  all_goals exact iff_of_false nofun (by omega)

/-- A directive of another code belongs to another row. -/
theorem directiveRow_ne {f : Frame} {r : DirectiveRow} (hr : r ≠ .unknown) (h : (byteAt f.payload 0).toNat ≠ r.code) :
    directiveRow f ≠ r := by
  rintro rfl
  exact (codeRow_code f.payload (byteAt f.payload 0).toNat).elim hr (fun hc => h hc.symm)

theorem directiveRow_of_code {f : Frame} {n : Nat} (h : (byteAt f.payload 0).toNat = n) :
    directiveRow f = codeRow f.payload n := by
  rw [directiveRow_eq, h]

theorem queryRow_view {p : Bytes} {v : Nat} (hp : 2 ≤ p.length) (h : (byteAt p 1).toNat = v) : queryRow p = viewRow v := by
  rw [queryRow_eq, if_neg (by omega), h]

theorem directiveRow_query {f : Frame} {v : Nat} (h : (byteAt f.payload 0).toNat = 12) (hp : 2 ≤ f.payload.length)
    (hv : (byteAt f.payload 1).toNat = v) : directiveRow f = viewRow v :=
  (directiveRow_of_code h).trans (queryRow_view hp hv)

/-- The number of a view's row. -/
def DirectiveRow.view : DirectiveRow → Nat
  | .queryEngine => 0
  | .queryRange => 1
  | .querySlot => 2
  | .queryContext => 3
  | .queryLimits => 4
  | _ => 5

theorem viewRow_view {v : Nat} (h : v ≤ 4) : (viewRow v).view = v := by
  interval_cases v <;> rfl

theorem viewRow_inj {v w : Nat} (hw : w ≤ 4) (h : viewRow v = viewRow w) : v = w := by
  have hv : v ≤ 4 := by
    by_contra hv
    exact absurd (viewRow_unknown.mp (h.symm.trans (viewRow_unknown.mpr (not_le.mp hv)))) (by omega)
  rw [← viewRow_view hv, h, viewRow_view hw]

theorem viewRow_ne_unknown {v : Nat} (h : v ≤ 4) : viewRow v ≠ .unknown := fun hu => by
  have := viewRow_unknown.mp hu
  omega

theorem directiveRow_ne_view {f : Frame} {v : Nat} (hv : v ≤ 4)
    (h : (byteAt f.payload 0).toNat ≠ 12 ∨ f.payload.length < 2 ∨ (byteAt f.payload 1).toNat ≠ v) :
    directiveRow f ≠ viewRow v := by
  have hview := viewRow_ne_unknown hv
  by_cases h12 : (byteAt f.payload 0).toNat = 12
  · rw [directiveRow_of_code h12]
    change queryRow f.payload ≠ viewRow v
    rw [queryRow_eq]
    split_ifs with hlen
    · exact hview.symm
    · exact fun heq => (h.resolve_left (not_not_intro h12)).elim hlen fun hne => hne (viewRow_inj hv heq)
  · exact directiveRow_ne hview (by rwa [(viewRow_code v).resolve_left hview])

/-! ### Each command on its own directive -/

section
variable {done rest : List DrqEntry} {e : DrqEntry} {s : State}

theorem Ready.row {code len : Nat} (h : Ready code len done e rest s) :
    directiveRow e.frame = codeRow e.frame.payload code :=
  directiveRow_of_code h.2.2.2.2.1

theorem exec_defineRange (h : Ready 1 24 done e rest s) : exec .defineRange s = .next (transmit (defineRangeBody e.frame.payload s)) :=
  exec_ready .defineRange h h.row rfl

theorem exec_disableRange (h : Ready 2 2 done e rest s) : exec .disableRange s = .next (transmit (disableRangeBody e.frame.payload s)) :=
  exec_ready .disableRange h h.row rfl

theorem exec_setLocks (h : Ready 3 3 done e rest s) : exec .setLocks s = .next (transmit (setLocksBody e.frame.payload s)) :=
  exec_ready .setLocks h h.row rfl

theorem exec_setWrappingKey (h : Ready 4 66 done e rest s) : exec .setWrappingKey s = .next (transmit (setWrappingKeyBody e.frame.payload s)) :=
  exec_ready .setWrappingKey h h.row rfl

theorem exec_clearWrappingKey (h : Ready 5 2 done e rest s) : exec .clearWrappingKey s = .next (transmit (clearWrappingKeyBody e.frame.payload s)) :=
  exec_ready .clearWrappingKey h h.row rfl

theorem exec_generateKey (h : Ready 6 5 done e rest s) : exec .generateKey s = .next (transmit (generateKeyBody e.frame.payload s)) :=
  exec_ready .generateKey h h.row rfl

theorem exec_installKey (h : Ready 7 99 done e rest s) : exec .installKey s = .next (transmit (installKeyBody e.frame.payload s)) :=
  exec_ready .installKey h h.row rfl

theorem exec_rekeySlot (h : Ready 8 6 done e rest s) : exec .rekeySlot s = .next (transmit (rekeySlotBody e.frame.payload s)) :=
  exec_ready .rekeySlot h h.row rfl

theorem exec_discardKey (h : Ready 9 3 done e rest s) : exec .discardKey s = .next (transmit (discardKeyBody e.frame.payload s)) :=
  exec_ready .discardKey h h.row rfl

theorem exec_abandonTransfer (h : Ready 10 2 done e rest s) : exec .abandonTransfer s = .next (transmit (abandonTransferBody e.frame.payload s)) :=
  exec_ready .abandonTransfer h h.row rfl

theorem exec_setLimits (h : Ready 11 18 done e rest s) : exec .setLimits s = .next (transmit (setLimitsBody e.frame.payload s)) :=
  exec_ready .setLimits h h.row rfl

theorem exec_resetEngine (h : Ready 14 1 done e rest s) : exec .resetEngine s = .next (transmit (resetEngineBody e.frame.payload s)) :=
  exec_ready .resetEngine h h.row rfl

/-- A QUERY runs the entry of its view; one whose number names no view runs that of the unknown directive (log entry 13). -/
theorem exec_query {v : Nat} (h : Ready 12 3 done e rest s) (hv : param e 1 = v) (h4 : v ≤ 4) :
    exec (viewRow v).command s = .next (transmit ((viewRow v).body e.frame.payload s)) := by
  obtain ⟨_, _, _, _, hcode, hlen, _⟩ := id h
  exact exec_ready _ h (directiveRow_query hcode (by omega) hv) (by interval_cases v <;> rfl)

end

end Sys2Proof.Machine

namespace Sys2Proof.Machine

/-- Settles O46: the row of the next directive decides which command is its own, and its checks what that command does. -/
theorem directivesThatCannotBegin : Obligations.DirectivesThatCannotBegin := by
  refine ⟨fun done e rest s h hdu hn => ?_, fun s h hn c hc => ?_⟩
  · have hunknown (hu : directiveRow e.frame = .unknown) := exec_refused .unknown h hdu hn hu (.inr nofun)
    refine ⟨fun hc => ?_, fun hc hp => ?_, fun x hx hc hbad => ?_, fun x hx hc hp hv hbad => ?_, fun x hx hc => ?_,
      fun x hx hc => ?_, fun h1 h14 hq => ?_⟩
    · exact hunknown ((codeRow_unknown _ _).mpr (hc.imp_right .inl))
    · exact hunknown ((codeRow_unknown _ _).mpr (.inr (.inr ⟨hc, by
        rw [queryRow_eq]
        split_ifs with hlen
        · rfl
        · exact viewRow_unknown.mpr (hp.resolve_left (by omega))⟩)))
    · obtain ⟨hlen, hcmd⟩ : directiveLength (codeRow e.frame.payload x.1) = some x.2.1 ∧
          x.2.2 = (codeRow e.frame.payload x.1).command := by
        fin_cases hx <;> exact ⟨rfl, rfl⟩
      rw [hcmd]
      exact exec_refused _ h hdu hn (directiveRow_of_code hc)
        (hbad.imp_right fun hl hs => hl (Option.some.inj (hs.symm.trans hlen)))
    · obtain ⟨hlen, hcmd⟩ : directiveLength (viewRow x.1) = some 3 ∧ x.2 = (viewRow x.1).command := by
        fin_cases hx <;> exact ⟨rfl, rfl⟩
      rw [hcmd]
      exact exec_refused _ h hdu hn (directiveRow_query hc hp hv)
        (hbad.imp_right fun hl hs => hl (Option.some.inj (hs.symm.trans hlen)))
    · obtain ⟨hcmd, hr, hcode⟩ : x.2 = (codeRow [] x.1).command ∧ codeRow [] x.1 ≠ .unknown ∧ (codeRow [] x.1).code = x.1 := by
        fin_cases hx <;> exact ⟨rfl, nofun, rfl⟩
      rw [hcmd]
      exact exec_other _ h hn (directiveRow_ne hr (by rwa [hcode]))
    · obtain ⟨hcmd, hx4⟩ : x.2 = (viewRow x.1).command ∧ x.1 ≤ 4 := by
        fin_cases hx <;> exact ⟨rfl, by decide⟩
      rw [hcmd]
      exact exec_other _ h hn (directiveRow_ne_view hx4 hc)
    · refine exec_other .unknown h hn fun hu => ?_
      have hu' : param e 0 = 0 ∨ 14 < param e 0 ∨ param e 0 = 12 ∧ queryRow e.frame.payload = .unknown :=
        (codeRow_unknown _ _).mp hu
      rcases hu' with h0 | hgt | ⟨h12, hq'⟩
      · omega
      · omega
      · obtain ⟨hp, hv⟩ := hq h12
        exact viewRow_ne_unknown hv ((queryRow_view hp rfl).symm.trans hq')
  · obtain ⟨r, rfl⟩ : ∃ r : DirectiveRow, r.command = c := by
      fin_cases hc
      exacts [⟨.defineRange, rfl⟩, ⟨.disableRange, rfl⟩, ⟨.setLocks, rfl⟩, ⟨.setWrappingKey, rfl⟩,
        ⟨.clearWrappingKey, rfl⟩, ⟨.generateKey, rfl⟩, ⟨.installKey, rfl⟩, ⟨.rekeySlot, rfl⟩, ⟨.discardKey, rfl⟩,
        ⟨.abandonTransfer, rfl⟩, ⟨.setLimits, rfl⟩, ⟨.queryEngine, rfl⟩, ⟨.queryRange, rfl⟩, ⟨.querySlot, rfl⟩,
        ⟨.queryContext, rfl⟩, ⟨.queryLimits, rfl⟩, ⟨.clearEvents, rfl⟩, ⟨.resetEngine, rfl⟩, ⟨.unknown, rfl⟩]
    exact exec_nothing r h hn

end Sys2Proof.Machine
end

section
/-! PROOFS. The directives on ranges, locks, wrapping keys and limits, the queries, and the engine reset. -/

namespace Sys2Proof.Machine

section
variable {done rest : List DrqEntry} {e : DrqEntry} {s : State}

/-! ### DEFINE RANGE and DISABLE RANGE -/

theorem slotParam_of {p : Bytes} {i : Nat} {slot : Option SlotIx}
    (h : ((byteAt p i).toNat = 255 ∧ slot = none) ∨
      ((byteAt p i).toNat < 16 ∧ slot = some (Fin.ofNat 16 (byteAt p i).toNat))) : slotParam p i = some slot := by
  unfold slotParam
  rcases h with ⟨h255, rfl⟩ | ⟨h16, rfl⟩
  · rw [if_pos (BitVec.eq_of_toNat_eq h255)]
  · have hne : byteAt p i ≠ 0xFF#8 := fun heq => by
      rw [heq] at h16
      exact absurd h16 (by decide)
    rw [if_neg hne, indexParam, if_pos h16]
    rfl

theorem slotParam_bad {p : Bytes} {i : Nat} (h16 : 16 ≤ (byteAt p i).toNat) (hne : (byteAt p i).toNat ≠ 255) :
    slotParam p i = none := by
  rw [slotParam, if_neg (fun heq => hne (by rw [heq]; rfl)), indexParam_out h16]
  rfl

theorem slotParam_some {p : Bytes} {i : Nat} (h : (byteAt p i).toNat < 16 ∨ (byteAt p i).toNat = 255) :
    ∃ slot, slotParam p i = some slot :=
  h.elim (fun h16 => ⟨_, slotParam_of (.inr ⟨h16, rfl⟩)⟩) fun h255 => ⟨_, slotParam_of (.inl ⟨h255, rfl⟩)⟩

theorem defineRangeBody_refused {p : Bytes} {k : RangeIx} {slot : Option SlotIx} {r : Result} (hk : indexParam 16 p 1 = some k)
    (hs : slotParam p 2 = some slot) (hr : defineRefusal k (rangeParam slot p) s = some r) :
    defineRangeBody p s = answer r [] s := by
  rw [defineRangeBody, hk, hs]
  simp only [hr]

theorem defineRangeBody_accepted {p : Bytes} {k : RangeIx} {slot : Option SlotIx} (hk : indexParam 16 p 1 = some k)
    (hs : slotParam p 2 = some slot) (hr : defineRefusal k (rangeParam slot p) s = none) :
    defineRangeBody p s = answer .ok [] (putRange k (definedRecord k (rangeParam slot p)) s) := by
  rw [defineRangeBody, hk, hs]
  simp only [hr]

theorem defineRangeBody_bad {p : Bytes} (h : indexParam 16 p 1 = none ∨ slotParam p 2 = none) :
    defineRangeBody p s = answer .badParam [] s := by
  rw [defineRangeBody]
  split
  · next hk hs => simp [hk, hs] at h
  · rfl

/-- The checks on range 0 (R31). -/
theorem defineRefusal_global (r : RangeRecord) (s : State) :
    defineRefusal 0 r s = if globalBusy s.ranges s.contexts then some .rangeBusy else none := by
  rw [defineRefusal, if_pos rfl]

/-- The checks on ranges 1 to 15, in the order of Table 2-3, with the bounds that the directive carries. -/
theorem defineRefusal_bounded {k : RangeIx} (hk : k ≠ 0) (slot : Option SlotIx) (p : Bytes) (s : State) :
    defineRefusal k (rangeParam slot p) s =
      if field p 10 6 = 0 then some .badParam
      else if field p 5 5 + field p 10 6 > s.limits.ceiling then some .outOfRange
      else if overlapsOther k (rangeParam slot p) s.ranges then some .overlap
      else if currentExtentBusy k s || extentBusy s.contexts (field p 5 5) (field p 5 5 + field p 10 6) then
        some .rangeBusy
      else none := by
  rw [defineRefusal, if_neg hk]
  rfl

theorem disableRangeBody_eq {p : Bytes} {k : RangeIx} (hk : indexParam 16 p 1 = some k) (h0 : k ≠ 0) :
    disableRangeBody p s =
      if currentExtentBusy k s then answer .rangeBusy [] s else answer .ok [] (putRange k RangeRecord.disabled s) := by
  rw [disableRangeBody, hk]
  exact if_neg h0

theorem disableRangeBody_bad {p : Bytes} (h : (byteAt p 1).toNat = 0 ∨ 15 < (byteAt p 1).toNat) :
    disableRangeBody p s = answer .badParam [] s := by
  rw [disableRangeBody]
  rcases h with h0 | h15
  · rw [indexParam_in (n := 16) (k := 0) h0]
    rfl
  · rw [indexParam_out h15]

/-! ### Locks, wrapping keys and limits -/

theorem rangeBeyond_iff (ceiling : Nat) (s : State) :
    rangeBeyond ceiling s.ranges = true ↔
      ∃ k : RangeIx, k ≠ 0 ∧ s.ranges[k].enabled = true ∧ ceiling < s.ranges[k].start + s.ranges[k].length := by
  simp only [rangeBeyond, List.any_eq_true, Bool.and_eq_true, bne_iff_ne, decide_eq_true_eq, rangeIndices,
    List.mem_finRange, true_and, RangeRecord.stop, and_assoc, ne_eq, gt_iff_lt]

theorem spanBeyond_iff (ceiling : Nat) (s : State) :
    spanBeyond ceiling s.contexts = true ↔
      ∃ t : Tag, s.contexts[t].state.isOpen = true ∧ ceiling < s.contexts[t].start + s.contexts[t].count := by
  simp only [spanBeyond, List.any_eq_true, Bool.and_eq_true, decide_eq_true_eq, allTags, List.mem_finRange, true_and,
    gt_iff_lt]

theorem clampHigh_eq (h : Nat) : clampHigh h = max 1 (min 16 h) := by
  unfold clampHigh
  split_ifs <;> omega

theorem limitsParam_eq (p : Bytes) :
    let high (h : Nat) := max 1 (min 16 h)
    let low (h l : Nat) := if l < high h then l else high h - 1
    limitsParam p =
      { ceiling := field p 1 6, fiqHigh := high (byteAt p 7).toNat, fiqLow := low (byteAt p 7).toNat (byteAt p 8).toNat,
        miqHigh := high (byteAt p 9).toNat, miqLow := low (byteAt p 9).toNat (byteAt p 10).toNat, idle := field p 11 2,
        drain := max 1 (field p 13 2), selector := (byteAt p 15).toNat } := by
  have hdrain (d : Nat) : (if d = 0 then 1 else d) = max 1 d := by split_ifs <;> omega
  simp only [limitsParam, clampLow, clampHigh_eq, hdrain]

/-! ### RESET ENGINE -/

/-- What RESET ENGINE keeps, before it is answered. -/
def resetKept (s : State) : State :=
  { State.reset with
    time := s.time, front := s.front.engineReset, media := s.media.engineReset,
    drq := (firstUnexecuted s.drq).toList, events := s.events.engineReset, pending := s.pending }

theorem engineReset_port (x : Port) :
    x.engineReset =
      { link := x.link, held := false, peerHold := false,
        pendingFlow := if x.told = some .hold then some .go else none, told := x.told,
        sending := if x.sending = some (.flow .hold) ∨ x.sending = some (.flow .go) then x.sending else none,
        line := x.line } := by
  rcases x with ⟨_, _, _, _, _, _ | (_ | _) | _ | _ | _, _⟩ <;> rfl

/-- ENGINE_RESET is set, so that ATTENTION is asserted under the whole mask (R148, R149). -/
theorem engineReset_events (e : Events) :
    e.engineReset = { flags := (e.flags &&& 1#15) ||| 2#15, mask := 0x7FFF#15, attention := true } := by
  have hset : ((e.flags &&& 1#15) ||| 2#15) &&& 0x7FFF#15 ≠ 0 := fun h0 => by
    have hbit := congrArg (BitVec.getLsbD · 1) h0
    simp at hbit
  have hatt : decide (((e.flags &&& 1#15) ||| 2#15) &&& 0x7FFF#15 ≠ 0) = true := decide_eq_true hset
  exact congrArg (Events.mk _ _) hatt

theorem resetEngineBody_eq (p : Bytes) (s : State) : resetEngineBody p s = answer .ok [] (resetKept s) := rfl

end

end Sys2Proof.Machine

namespace Sys2Proof.Machine

/-- Settles O47: no check of Table 2-3 fails. -/
theorem rangesDefinedAndDisabled : Obligations.RangesDefinedAndDisabled := by
  refine ⟨fun done e rest s k slot h hk hslot => ⟨fun h0 hlen hceil hover hcur hnew => ?_, fun h0 hfree => ?_⟩,
    fun done e rest s k h h0 hk hcur => ?_⟩
  · have hnone : defineRefusal k (rangeParam slot e.frame.payload) s = none := by
      rw [defineRefusal_bounded h0, if_neg (Nat.one_le_iff_ne_zero.mp hlen), if_neg (not_lt.mpr hceil), if_neg, if_neg]
      · rw [Bool.or_eq_true, currentExtentBusy_iff, extentBusy_iff]
        rintro (⟨hen, hmeet⟩ | hmeet)
        · exact hcur hen hmeet
        · exact hnew hmeet
      · rw [overlapsOther_iff]
        rintro ⟨j, hj0, hjk, hen, hmeet⟩
        exact hover j hj0 hjk hen hmeet
    rw [exec_defineRange h, defineRangeBody_accepted (indexParam_in hk) (slotParam_of hslot) hnone, definedRecord,
      if_neg h0, answer_of_ready h] <;> rfl
  · subst h0
    have hnone : defineRefusal 0 (rangeParam slot e.frame.payload) s = none := by
      rw [defineRefusal_global, if_neg]
      rw [globalBusy_iff]
      rintro ⟨t, ho, i, hi, hl⟩
      exact hfree t ho i hi hl
    rw [exec_defineRange h, defineRangeBody_accepted (indexParam_in hk) (slotParam_of hslot) hnone, definedRecord,
      if_pos rfl, answer_of_ready h] <;> rfl
  · have hfree : ¬ currentExtentBusy k s = true := by
      rw [currentExtentBusy_iff]
      exact fun hb => hcur hb.1 hb.2
    rw [exec_disableRange h, disableRangeBody_eq (indexParam_in hk) h0, if_neg hfree, answer_of_ready h] <;> rfl

/-- Settles O48: the first check of Table 2-3 that fails gives the answer. -/
theorem rangeDirectivesRefused : Obligations.RangeDirectivesRefused := by
  refine ⟨fun done e rest s h => ⟨fun h15 => ?_, fun h16 hne => ?_, fun k hk hslot => ?_⟩, fun done e rest s h =>
    ⟨fun hbad => ?_, fun k h0 hk hen hmeet => ?_⟩⟩
  · rw [exec_defineRange h, defineRangeBody_bad (.inl (indexParam_out h15)), answer_of_ready h rfl rfl]
  · rw [exec_defineRange h, defineRangeBody_bad (.inr (slotParam_bad h16 hne)), answer_of_ready h rfl rfl]
  · obtain ⟨slot, hs⟩ := slotParam_some hslot
    have hrefused {r : Result} (hr : defineRefusal k (rangeParam slot e.frame.payload) s = some r) :
        exec .defineRange s = .next (transmit (s.answered r [] done e rest)) := by
      rw [exec_defineRange h, defineRangeBody_refused (indexParam_in hk) hs hr, answer_of_ready h rfl rfl]
    have hover := overlapsOther_iff s k (rangeParam slot e.frame.payload)
    refine ⟨fun h0 hlen => ?_, fun h0 hlen hceil => ?_, fun h0 hlen hceil ho => ?_, fun h0 hlen hceil ho hbusy => ?_,
      fun h0 hbusy => ?_⟩
    · exact hrefused (by rw [defineRefusal_bounded h0, if_pos hlen])
    · exact hrefused (by rw [defineRefusal_bounded h0, if_neg (Nat.one_le_iff_ne_zero.mp hlen), if_pos hceil])
    · exact hrefused (by
        rw [defineRefusal_bounded h0, if_neg (Nat.one_le_iff_ne_zero.mp hlen), if_neg (not_lt.mpr hceil),
          if_pos (hover.mpr ho)])
    · refine hrefused ?_
      rw [defineRefusal_bounded h0, if_neg (Nat.one_le_iff_ne_zero.mp hlen), if_neg (not_lt.mpr hceil),
        if_neg (fun hb => ho (hover.mp hb)), if_pos]
      rw [Bool.or_eq_true, currentExtentBusy_iff, extentBusy_iff]
      exact hbusy
    · subst h0
      exact hrefused (by rw [defineRefusal_global, if_pos ((globalBusy_iff s).mpr hbusy)])
  · rw [exec_disableRange h, disableRangeBody_bad hbad, answer_of_ready h rfl rfl]
  · rw [exec_disableRange h, disableRangeBody_eq (indexParam_in hk) h0,
      if_pos ((currentExtentBusy_iff s k).mpr ⟨hen, hmeet⟩), answer_of_ready h rfl rfl]

/-- Settles O49. -/
theorem setLocksWritesTwoFields : Obligations.SetLocksWritesTwoFields := by
  refine fun done e rest s h => ⟨fun k hk => ?_, fun h15 => ?_⟩
  · rw [exec_setLocks h, setLocksBody, indexParam_in hk]
    dsimp only
    rw [answer_of_ready h] <;> rfl
  · rw [exec_setLocks h, setLocksBody, indexParam_out h15]
    exact congrArg _ (congrArg _ (answer_of_ready h rfl rfl))

/-- Settles O50. -/
theorem wrappingKeysSetAndCleared : Obligations.WrappingKeysSetAndCleared := by
  refine fun done e rest s => ⟨fun h => ⟨fun n hn => ?_, fun h3 => ?_⟩, fun h => ⟨fun n hn => ?_, fun h3 => ?_⟩⟩
  · rw [exec_setWrappingKey h, setWrappingKeyBody, indexParam_in hn]
    dsimp only
    rw [answer_of_ready h]
    · simp only [keyOfBytes, slice, List.take_take, min_self, field]
      rfl
    · rfl
    · rfl
  · rw [exec_setWrappingKey h, setWrappingKeyBody, indexParam_out h3]
    exact congrArg _ (congrArg _ (answer_of_ready h rfl rfl))
  · rw [exec_clearWrappingKey h, clearWrappingKeyBody, indexParam_in hn]
    dsimp only
    rw [answer_of_ready h] <;> rfl
  · rw [exec_clearWrappingKey h, clearWrappingKeyBody, indexParam_out h3]
    exact congrArg _ (congrArg _ (answer_of_ready h rfl rfl))

/-- Settles O57: the three answers of SET LIMITS. -/
theorem setLimitsStores : Obligations.SetLimitsStores := by
  intro done e rest s h
  have hbody := exec_setLimits h
  rw [setLimitsBody] at hbody
  have hbad : ((limitsParam e.frame.payload).ceiling = 0 ∨ (limitsParam e.frame.payload).ceiling > Config.maxCeiling ∨
      (limitsParam e.frame.payload).selector > 7) ↔
      (field e.frame.payload 1 6 = 0 ∨ 2 ^ 40 < field e.frame.payload 1 6 ∨ 7 < param e 15) := Iff.rfl
  have hconf : (rangeBeyond (limitsParam e.frame.payload).ceiling s.ranges ||
      spanBeyond (limitsParam e.frame.payload).ceiling s.contexts) = true ↔ _ :=
    Bool.or_eq_true_iff.trans (or_congr (rangeBeyond_iff _ s) (spanBeyond_iff _ s))
  refine ⟨fun hb => ?_, fun hb hc => ?_, fun hb hc => ?_⟩
  · rw [hbody, if_pos (hbad.mpr hb), answer_of_ready h rfl rfl]
  · rw [hbody, if_neg (fun hx => hb (hbad.mp hx)), if_pos (hconf.mpr hc), answer_of_ready h rfl rfl]
  · rw [hbody, if_neg (fun hx => hb (hbad.mp hx)), if_neg (fun hx => hc (hconf.mp hx)), answer_of_ready h,
      limitsParam_eq] <;> rfl

/-- Settles O58: the answer of each view. -/
theorem queriesAnswer : Obligations.QueriesAnswer := by
  refine fun done e rest s h => ⟨fun hv => ?_, fun hv => ⟨fun k hk => ?_, fun h15 => ?_⟩,
    fun hv => ⟨fun k hk => ?_, fun h15 => ?_⟩, fun hv => ⟨fun t ht => ?_, fun h63 => ?_⟩, fun hv => ?_, fun hv => ?_⟩
  · exact (exec_query h hv (by decide)).trans (congrArg _ (congrArg _ (answer_of_ready h rfl rfl)))
  · refine (exec_query h hv (by decide)).trans (congrArg _ (congrArg _ ?_))
    change queryRangeBody _ _ = _
    rw [queryRangeBody, indexParam_in hk]
    exact answer_of_ready h rfl rfl
  · refine (exec_query h hv (by decide)).trans (congrArg _ (congrArg _ ?_))
    change queryRangeBody _ _ = _
    rw [queryRangeBody, indexParam_out h15]
    exact answer_of_ready h rfl rfl
  · refine (exec_query h hv (by decide)).trans (congrArg _ (congrArg _ ?_))
    change querySlotBody _ _ = _
    rw [querySlotBody, indexParam_in hk]
    exact answer_of_ready h rfl rfl
  · refine (exec_query h hv (by decide)).trans (congrArg _ (congrArg _ ?_))
    change querySlotBody _ _ = _
    rw [querySlotBody, indexParam_out h15]
    exact answer_of_ready h rfl rfl
  · refine (exec_query h hv (by decide)).trans (congrArg _ (congrArg _ ?_))
    change queryContextBody _ _ = _
    rw [queryContextBody, indexParam_in ht]
    exact answer_of_ready h rfl rfl
  · refine (exec_query h hv (by decide)).trans (congrArg _ (congrArg _ ?_))
    change queryContextBody _ _ = _
    rw [queryContextBody, indexParam_out h63]
    exact answer_of_ready h rfl rfl
  · exact (exec_query h hv (by decide)).trans (congrArg _ (congrArg _ (answer_of_ready h rfl rfl)))
  · obtain ⟨ha, hdu, hn, hdam, hcode, hlen, _⟩ := id h
    have hrow : directiveRow e.frame = .unknown :=
      (directiveRow_query hcode (by omega) rfl).trans (viewRow_unknown.mpr hv)
    refine (exec_refused .unknown ha hdu hn hrow (.inr nofun)).trans ?_
    rw [if_neg (by simp [hdam])]

/-- Settles O60: the port after the reset, and the answer on the entry that is kept. -/
theorem resetEngineResets : Obligations.ResetEngineResets := by
  intro done e rest s h reset flags
  obtain ⟨-, -, ⟨hq, hd, he⟩, -⟩ := id h
  have hkept : Next [] e [] (resetKept s) := ⟨by rw [resetKept, hq, firstUnexecuted_split hd he]; rfl, nofun, he⟩
  have hport (x : Port) : x.engineReset = reset x := engineReset_port x
  rw [exec_resetEngine h, resetEngineBody_eq, answer_next hkept rfl, ← hport, ← hport]
  simp only [resetKept, engineReset_events]
  rfl

end Sys2Proof.Machine
end

section
/-! PROOFS. The key directives, the health tests of the Random Source, and the ends of the computations on keys. -/

namespace Sys2Proof.Machine

/-! ### Parameters -/

theorem indexParam_none {n : Nat} [NeZero n] {p : Bytes} {i : Nat} : indexParam n p i = none ↔ n ≤ (byteAt p i).toNat := by
  unfold indexParam
  dsimp only
  split_ifs with h
  · exact iff_of_false nofun (not_le.mpr h)
  · exact iff_of_true rfl (not_lt.mp h)

theorem modeParam_wait {p : Bytes} {i : Nat} (h : (byteAt p i).toNat = 0) : modeParam p i = some .wait := by
  simp only [modeParam, h]

theorem modeParam_cut {p : Bytes} {i : Nat} (h : (byteAt p i).toNat = 1) : modeParam p i = some .cut := by
  simp only [modeParam, h]

theorem modeParam_some {p : Bytes} {i : Nat} (h : (byteAt p i).toNat ≤ 1) : ∃ m, modeParam p i = some m := by
  rcases Nat.le_one_iff_eq_zero_or_eq_one.mp h with h0 | h1
  · exact ⟨_, modeParam_wait h0⟩
  · exact ⟨_, modeParam_cut h1⟩

theorem modeParam_none {p : Bytes} {i : Nat} (h : 1 < (byteAt p i).toNat) : modeParam p i = none := by
  unfold modeParam
  split
  · omega
  · omega
  · rfl

/-! ### The catalogue entries, check by check -/

section
variable {p : Bytes} {k : SlotIx} {n : EntryIx} {m : DrainMode} {s : State}

theorem generateKeyBody_eq (hk : indexParam 16 p 1 = some k) (hn : indexParam 4 p 2 = some n) :
    generateKeyBody p s =
      if s.slots[k].state ≠ .empty then answer .slotState [] s
      else if s.wrapping[n] = none then answer .noWrap [] s
      else if s.random = .failed then answer .noRandom [] s
      else { fillingSlot k s with du := some { task := .filling k n (generationParam p 3), silent := false } } := by
  simp only [generateKeyBody, hk, hn]

theorem installKeyBody_eq (hk : indexParam 16 p 1 = some k) (hn : indexParam 4 p 2 = some n) :
    installKeyBody p s =
      if s.slots[k].state ≠ .empty then answer .slotState [] s
      else if s.wrapping[n] = none then answer .noWrap [] s
      else if recordVersion (slice p 3 96) ≠ 1 then answer .badBlob [] s
      else { fillingSlot k s with du := some { task := .opening k n (slice p 3 96), silent := false } } := by
  simp only [installKeyBody, hk, hn]

theorem rekeySlotBody_eq (hk : indexParam 16 p 1 = some k) (hn : indexParam 4 p 2 = some n) (hm : modeParam p 5 = some m) :
    rekeySlotBody p s =
      if s.slots[k].state ≠ .ready then answer .slotState [] s
      else if s.wrapping[n] = none then answer .noWrap [] s
      else if s.random = .failed then answer .noRandom [] s
      else if s.slots[k].generation = generationParam p 3 then answer .sameGeneration [] s
      else beginDrain k (.rekey n (generationParam p 3)) m s := by
  simp only [rekeySlotBody, hk, hn, hm]

theorem discardKeyBody_eq (hk : indexParam 16 p 1 = some k) (hm : modeParam p 2 = some m) :
    discardKeyBody p s = if s.slots[k].state ≠ .ready then answer .slotState [] s else beginDrain k .discard m s := by
  simp only [discardKeyBody, hk, hm]

theorem generateKeyBody_bad (h : indexParam 16 p 1 = none ∨ indexParam 4 p 2 = none) :
    generateKeyBody p s = answer .badParam [] s := by
  unfold generateKeyBody
  split
  · next hk hn => simp [hk, hn] at h
  · rfl

theorem installKeyBody_bad (h : indexParam 16 p 1 = none ∨ indexParam 4 p 2 = none) :
    installKeyBody p s = answer .badParam [] s := by
  unfold installKeyBody
  split
  · next hk hn => simp [hk, hn] at h
  · rfl

theorem rekeySlotBody_bad (h : indexParam 16 p 1 = none ∨ indexParam 4 p 2 = none ∨ modeParam p 5 = none) :
    rekeySlotBody p s = answer .badParam [] s := by
  unfold rekeySlotBody
  split
  · next hk hn hm => simp [hk, hn, hm] at h
  · rfl

theorem discardKeyBody_bad (h : indexParam 16 p 1 = none ∨ modeParam p 2 = none) :
    discardKeyBody p s = answer .badParam [] s := by
  unfold discardKeyBody
  split
  · next hk hm => simp [hk, hm] at h
  · rfl

theorem recordVersion_slice (p : Bytes) : recordVersion (slice p 3 96) = byteAt p 3 := by
  simp [recordVersion, slice, byteAt, List.getD_eq_getElem?_getD, List.getElem?_drop]

end

/-! ### Drains -/

section
variable {k : SlotIx} {goal : DrainGoal} {m : DrainMode} {s : State}

/-- A drain with an empty set is complete at once (R55). -/
theorem beginDrain_unused (h : drainSetOf k s = []) :
    beginDrain k goal m s = completeDrain k goal (drainBegun k goal none s) := by
  unfold beginDrain drainBegun
  dsimp only
  rw [h]
  cases m <;> rfl

theorem beginDrain_wait (h : drainSetOf k s ≠ []) :
    beginDrain k goal .wait s = drainBegun k goal (some (timeAfter s.time (1000 * s.limits.drain))) s := by
  have hempty : (drainSetOf k s).isEmpty = false := by simpa using h
  unfold beginDrain drainBegun
  simp only [hempty, Bool.false_eq_true, if_false]

theorem beginDrain_cut (h : drainSetOf k s ≠ []) :
    beginDrain k goal .cut s = heads (cutTransfers (drainSetOf k s) (drainBegun k goal none s)) := by
  have hempty : (drainSetOf k s).isEmpty = false := by simpa using h
  unfold beginDrain drainBegun
  simp only [hempty, Bool.false_eq_true, if_false]

theorem completeDrain_discard : completeDrain k .discard s = answer .ok [] (emptySlot k s) := rfl

theorem completeDrain_rekey {n : EntryIx} {g : Generation} (h : s.random ≠ .failed) :
    completeDrain k (.rekey n g) s =
      { fillingSlot k s with du := some { task := .filling k n g, silent := silentUnit s } } := by
  rw [completeDrain, if_neg h]

theorem completeDrain_failed {n : EntryIx} {g : Generation} (h : s.random = .failed) :
    completeDrain k (.rekey n g) s = answer .randomFailed [] (emptySlot k s) := by
  rw [completeDrain, if_pos h]

theorem emptySlot_drainBegun (timer : Option Time) (s : State) :
    emptySlot k (drainBegun k goal timer s) =
      { s with
        slots := s.slots.set k { s.slots[k] with state := .empty, dataKey := 0, tweakKey := 0, drainSet := [] },
        du := some { task := .draining k goal timer, silent := false } } := by
  simp only [emptySlot, drainBegun, putSlot, set_get_self, set_set_self]

theorem fillingSlot_drainBegun (timer : Option Time) (s : State) :
    fillingSlot k (drainBegun k goal timer s) =
      { s with
        slots := s.slots.set k { s.slots[k] with state := .filling, dataKey := 0, tweakKey := 0, drainSet := [] },
        du := some { task := .draining k goal timer, silent := false } } := by
  simp only [fillingSlot, drainBegun, putSlot, set_get_self, set_set_self]

end

/-! ### Health tests -/

theorem randomFails_other {s : State} (h : ∀ k e g silent, s.du ≠ some ⟨.filling k e g, silent⟩) :
    randomFails s = { s.flagged Flag.randomFail with random := .failed } := by
  unfold randomFails
  dsimp only
  split
  · next k e g silent hdu => exact absurd hdu (h k e g silent)
  · rfl

theorem randomFails_filling {k : SlotIx} {e : EntryIx} {g : Generation} {silent : Bool} {s : State}
    (h : s.du = some ⟨.filling k e g, silent⟩) :
    randomFails s = failFilling k .randomFailed { s.flagged Flag.randomFail with random := .failed } := by
  unfold randomFails
  dsimp only
  split
  · next hdu =>
    cases h.symm.trans (show s.du = _ from hdu)
    rfl
  · next hdu => exact absurd h (hdu k e g silent)

theorem exec_startUpTest (passed : Bool) {s : State} (h : Awake s) :
    exec (.startUpTestComplete passed) s = .next (transmit (startUpTestEnds passed s)) :=
  atEvent_awake (f := fun s => transmit (startUpTestEnds passed s)) h

theorem exec_runningTest {s : State} (h : Awake s) :
    exec .runningTestFailure s = .next (transmit (runningTestFails s)) :=
  atEvent_awake (f := fun s => transmit (runningTestFails s)) h

/-- A failing test, in the state of the source in which it runs. -/
theorem exec_testFails {c : Instr} {s : State} (h : Awake s)
    (hc : (s.random = .warming ∧ c = .startUpTestComplete false) ∨ (s.random = .ready ∧ c = .runningTestFailure)) :
    exec c s = .next (transmit (randomFails s)) := by
  rcases hc with ⟨hr, rfl⟩ | ⟨hr, rfl⟩
  · rw [exec_startUpTest _ h, startUpTestEnds, if_pos hr, if_neg nofun]
  · rw [exec_runningTest h, runningTestFails, if_pos hr]

/-! ### The ends of fills and openings -/

section
variable {k : SlotIx} {n : EntryIx} {g : Generation} {silent : Bool} {done rest : List DrqEntry} {e : DrqEntry} {s : State}

theorem exec_fillEnd (dataKey tweakKey : Key) (nonce : Nonce) (atOnce : Bool) (h : Awake s) :
    exec (.fillEnd dataKey tweakKey nonce atOnce) s = .next (transmit (fillEnds dataKey tweakKey nonce atOnce s)) :=
  atEvent_awake (f := fun s => transmit (fillEnds dataKey tweakKey nonce atOnce s)) h

theorem exec_wrappedRecordMade (h : Awake s) : exec .wrappedRecordMade s = .next (transmit (wrappingEnds s)) :=
  atEvent_awake (f := fun s => transmit (wrappingEnds s)) h

theorem exec_recordOpeningEnd (h : Awake s) : exec .recordOpeningEnd s = .next (transmit (openingEnds s)) :=
  atEvent_awake (f := fun s => transmit (openingEnds s)) h

/-- A directive that fills a slot fails: the slot is EMPTY and the directive ends with the result (R46, R48, R54). -/
theorem failFilling_of_runs {task : Task} (r : Result) (h : Runs task silent done e rest s) :
    failFilling k r s = State.concluded silent r [] done e rest
      { s with slots := s.slots.set k { s.slots[k] with state := .empty, dataKey := 0, tweakKey := 0, drainSet := [] } } :=
  answer_of_runs h (silentUnit_doing (x := ⟨task, silent⟩) h.2.1) rfl

/-- A directive that fills a slot ends OK: the slot is READY with its keys (R53, R54, R58). -/
theorem readyAnswer_of_runs {task : Task} (data : Bytes) (dataKey tweakKey : Key)
    (h : Runs task silent done e rest s) :
    answer .ok data (readySlot k dataKey tweakKey g s) = State.concluded silent .ok data done e rest
      { s with
        slots := s.slots.set k
          { s.slots[k] with state := .ready, dataKey := dataKey, tweakKey := tweakKey, generation := g } } :=
  answer_of_runs h (silentUnit_doing (x := ⟨task, silent⟩) h.2.1) rfl

theorem makeSlotRecord_of_none {task : Task} (dataKey tweakKey : Key) (nonce : Nonce)
    (h : Runs task silent done e rest s) (hn : s.wrapping[n] = none) :
    makeSlotRecord k n g dataKey tweakKey nonce s = State.concluded silent .noWrap [] done e rest
      { s with
        slots := s.slots.set k { s.slots[k] with state := .empty, dataKey := 0, tweakKey := 0, drainSet := [] } } := by
  rw [makeSlotRecord, hn]
  exact failFilling_of_runs .noWrap h

theorem makeSlotRecord_of_some {task : Task} (dataKey tweakKey : Key) (nonce : Nonce) {w : WrappingKey}
    (h : Runs task silent done e rest s) (hn : s.wrapping[n] = some w) :
    makeSlotRecord k n g dataKey tweakKey nonce s =
      State.concluded silent .ok (makeRecord w g nonce dataKey tweakKey) done e rest
        { s with
          slots := s.slots.set k
            { s.slots[k] with state := .ready, dataKey := dataKey, tweakKey := tweakKey, generation := g } } := by
  rw [makeSlotRecord, hn]
  exact readyAnswer_of_runs _ _ _ h

theorem fillEnds_ready {dataKey tweakKey : Key} {nonce : Nonce} {atOnce : Bool}
    (h : Runs (.filling k n g) silent done e rest s) (hr : s.random = .ready) :
    fillEnds dataKey tweakKey nonce atOnce s =
      if atOnce || s.wrapping[n].isNone then makeSlotRecord k n g dataKey tweakKey nonce s
      else { s with du := some { task := .wrapping k n g dataKey tweakKey nonce, silent := silent } } := by
  simp only [fillEnds, h.2.1, hr]

theorem wrappingEnds_runs {dataKey tweakKey : Key} {nonce : Nonce}
    (h : Runs (.wrapping k n g dataKey tweakKey nonce) silent done e rest s) :
    wrappingEnds s = makeSlotRecord k n g dataKey tweakKey nonce s := by
  simp only [wrappingEnds, h.2.1]

end

end Sys2Proof.Machine

namespace Sys2Proof.Machine

/-- Settles O51: no check fails, and the slot goes to FILLING. -/
theorem slotsBeginToFill : Obligations.SlotsBeginToFill := by
  refine fun done e rest s k n hk hn hstate hentry => ⟨fun h hr => ?_, fun h hv => ?_⟩
  · rw [exec_generateKey h, generateKeyBody_eq (indexParam_in hk) (indexParam_in hn), if_neg (not_not_intro hstate),
      if_neg hentry, if_neg hr]
    rfl
  · have hver : ¬ recordVersion (slice e.frame.payload 3 96) ≠ 1 := by
      rw [recordVersion_slice]
      exact not_not_intro (BitVec.eq_of_toNat_eq hv)
    rw [exec_installKey h, installKeyBody_eq (indexParam_in hk) (indexParam_in hn), if_neg (not_not_intro hstate),
      if_neg hentry, if_neg hver]
    rfl

/-- Settles O52: the first check that fails gives the answer. -/
theorem keyDirectivesRefused : Obligations.KeyDirectivesRefused := by
  refine fun done e rest s => ⟨fun c hc => ?_, fun h => ⟨fun hbad => ?_, fun k hk hm hstate => ?_⟩⟩
  · rcases hc with ⟨h, rfl⟩ | ⟨h, rfl⟩ | ⟨h, rfl⟩
    · have hrefused {r : Result} (hb : generateKeyBody e.frame.payload s = answer r [] s) :
          exec .generateKey s = .next (transmit (s.answered r [] done e rest)) := by
        rw [exec_generateKey h, hb, answer_of_ready h rfl rfl]
      refine ⟨fun hbad => hrefused (generateKeyBody_bad ?_), fun k n hk hn _ => ?_⟩
      · exact hbad.imp indexParam_none.mpr fun hn => indexParam_none.mpr (hn.resolve_right fun hx => nomatch hx.1)
      · have hbody := generateKeyBody_eq (s := s) (indexParam_in hk) (indexParam_in hn)
        refine ⟨fun (hs : s.slots[k].state ≠ .empty) => hrefused ?_, fun (hs : s.slots[k].state = .empty) hw => hrefused ?_, fun (hs : s.slots[k].state = .empty) hw _ hr => hrefused ?_, fun _ _ hc => (by cases hc),
          fun _ _ hc => (by cases hc)⟩
        · rw [hbody, if_pos hs]
        · rw [hbody, if_neg (not_not_intro hs), if_pos hw]
        · rw [hbody, if_neg (not_not_intro hs), if_neg hw, if_pos hr]
    · have hrefused {r : Result} (hb : installKeyBody e.frame.payload s = answer r [] s) :
          exec .installKey s = .next (transmit (s.answered r [] done e rest)) := by
        rw [exec_installKey h, hb, answer_of_ready h rfl rfl]
      refine ⟨fun hbad => hrefused (installKeyBody_bad ?_), fun k n hk hn _ => ?_⟩
      · exact hbad.imp indexParam_none.mpr fun hn => indexParam_none.mpr (hn.resolve_right fun hx => nomatch hx.1)
      · have hbody := installKeyBody_eq (s := s) (indexParam_in hk) (indexParam_in hn)
        refine ⟨fun (hs : s.slots[k].state ≠ .empty) => hrefused ?_, fun (hs : s.slots[k].state = .empty) hw => hrefused ?_, fun _ _ hc => absurd rfl hc,
          fun (hs : s.slots[k].state = .empty) hw _ hv => hrefused ?_, fun _ _ hc => (by cases hc)⟩
        · rw [hbody, if_pos hs]
        · rw [hbody, if_neg (not_not_intro hs), if_pos hw]
        · have hver : recordVersion (slice e.frame.payload 3 96) ≠ 1 := by
            rw [recordVersion_slice]
            exact fun heq => hv (congrArg BitVec.toNat heq)
          rw [hbody, if_neg (not_not_intro hs), if_neg hw, if_pos hver]
    · have hrefused {r : Result} (hb : rekeySlotBody e.frame.payload s = answer r [] s) :
          exec .rekeySlot s = .next (transmit (s.answered r [] done e rest)) := by
        rw [exec_rekeySlot h, hb, answer_of_ready h rfl rfl]
      refine ⟨fun hbad => hrefused (rekeySlotBody_bad ?_), fun k n hk hn hmode => ?_⟩
      · exact hbad.imp indexParam_none.mpr (Or.imp indexParam_none.mpr fun hm => modeParam_none hm.2)
      · obtain ⟨m, hm⟩ := modeParam_some (hmode rfl)
        have hbody := rekeySlotBody_eq (s := s) (indexParam_in hk) (indexParam_in hn) hm
        refine ⟨fun (hs : s.slots[k].state ≠ .ready) => hrefused ?_, fun (hs : s.slots[k].state = .ready) hw => hrefused ?_, fun (hs : s.slots[k].state = .ready) hw _ hr => hrefused ?_, fun _ _ hc => (by cases hc),
          fun (hs : s.slots[k].state = .ready) hw _ hr (hg : _ = generationParam e.frame.payload 3) => hrefused ?_⟩
        · rw [hbody, if_pos hs]
        · rw [hbody, if_neg (not_not_intro hs), if_pos hw]
        · rw [hbody, if_neg (not_not_intro hs), if_neg hw, if_pos hr]
        · rw [hbody, if_neg (not_not_intro hs), if_neg hw, if_neg hr, if_pos hg]
  · change exec .discardKey s = _
    rw [exec_discardKey h, discardKeyBody_bad (hbad.imp indexParam_none.mpr modeParam_none), answer_of_ready h rfl rfl]
  · obtain ⟨m, hm⟩ := modeParam_some hm
    rw [exec_discardKey h, discardKeyBody_eq (indexParam_in hk) hm, if_pos hstate, answer_of_ready h rfl rfl]

/-- Settles O45: the source's state decides, and a directive whose fill has not ended fails with it. -/
theorem healthTestsEnd : Obligations.HealthTestsEnd := by
  refine fun s h => ⟨fun hr => ?_, fun hr passed => ?_, fun hr => ?_, fun c hc => ⟨fun hdu => ?_, ?_⟩⟩
  · rw [exec_startUpTest _ h, startUpTestEnds, if_pos hr, if_pos rfl]
  · rw [exec_startUpTest _ h, startUpTestEnds, if_neg hr]
  · rw [exec_runningTest h, runningTestFails, if_neg hr]
  · rw [exec_testFails h hc, randomFails_other hdu]
  · intro k e g silent done x rest hruns
    rw [exec_testFails h hc, randomFails_filling hruns.2.1]
    exact congrArg _ (congrArg _ (answer_of_runs hruns (silentUnit_doing (x := ⟨.filling k e g, silent⟩) hruns.2.1) rfl))

/-- Settles O53: with and without the named entry. -/
theorem keyComputationsEnd : Obligations.KeyComputationsEnd := by
  refine ⟨fun k n g silent done e rest s dataKey tweakKey nonce atOnce =>
    ⟨fun h hr => ⟨fun hn => ?_, fun w hw => ⟨?_, ?_⟩⟩, fun h => ⟨fun hn => ?_, fun w hw => ?_⟩⟩,
    fun k n record silent done e rest s h => ⟨fun hn => ?_, fun w hw => ⟨fun ho => ?_, fun dataKey tweakKey g ho => ?_⟩⟩⟩
  · rw [exec_fillEnd _ _ _ _ h.1, fillEnds_ready h hr, hn, if_pos (by simp), makeSlotRecord_of_none _ _ _ h hn]
  · rw [exec_fillEnd _ _ _ _ h.1, fillEnds_ready h hr, if_pos (by simp), makeSlotRecord_of_some _ _ _ h hw]
  · rw [exec_fillEnd _ _ _ _ h.1, fillEnds_ready h hr, hw, if_neg (by simp)]
  · rw [exec_wrappedRecordMade h.1, wrappingEnds_runs h, makeSlotRecord_of_none _ _ _ h hn]
  · rw [exec_wrappedRecordMade h.1, wrappingEnds_runs h, makeSlotRecord_of_some _ _ _ h hw]
  · simp only [exec_recordOpeningEnd h.1, openingEnds, h.2.1, hn, failFilling_of_runs .noWrap h]
  · simp only [exec_recordOpeningEnd h.1, openingEnds, h.2.1, hw, ho, failFilling_of_runs .wrapCheck h]
  · simp only [exec_recordOpeningEnd h.1, openingEnds, h.2.1, hw, ho, readyAnswer_of_runs _ _ _ h]

/-- Settles O54: with the drain set formed empty the drain is complete at once. -/
theorem unusedSlotDrainsAtOnce : Obligations.UnusedSlotDrainsAtOnce := by
  intro done e rest s k hk hstate hfree
  have hnil : drainSetOf k s = [] := drainSetOf_nil hfree
  refine ⟨fun n h hn hm hentry hr hg => ?_, fun h hm => ?_⟩
  · obtain ⟨m, hm⟩ := modeParam_some hm
    have hg' : ¬ s.slots[k].generation = generationParam e.frame.payload 3 := hg
    rw [exec_rekeySlot h, rekeySlotBody_eq (indexParam_in hk) (indexParam_in hn) hm, if_neg (not_not_intro hstate),
      if_neg hentry, if_neg hr, if_neg hg', beginDrain_unused hnil, completeDrain_rekey (by exact hr),
      fillingSlot_drainBegun]
    rfl
  · obtain ⟨m, hm⟩ := modeParam_some hm
    rw [exec_discardKey h, discardKeyBody_eq (indexParam_in hk) hm, if_neg (not_not_intro hstate),
      beginDrain_unused hnil, completeDrain_discard, emptySlot_drainBegun]
    exact congrArg _ (congrArg _ (answer_next h.2.2.1 rfl))

end Sys2Proof.Machine
end

section
/-! PROOFS. The expiry of timers: as commands and in idle steps (R35, R57, R76, R155, R157; log entry 3). -/

namespace Sys2Proof.Machine

/-! ### When an expiry is taken -/

theorem expiryAt_eq (s : State) (d : Time) :
    s.expiryAt d = if (d - s.time).toNat = 0 ∨ 2 ^ 63 ≤ (d - s.time).toNat then s.time else d := by
  unfold State.expiryAt timeRemaining
  dsimp only
  split_ifs <;> first | rfl | omega

/-- A deadline that has been passed by a unit expires now. -/
theorem expiryAt_closed {s : State} {d : Time} {unit : Nat} (hu : 1 ≤ unit) (h : Closed s.time d unit) :
    s.expiryAt d = s.time := by
  have hsub : (d - s.time).toNat = (2 ^ 64 - (s.time - d).toNat) % 2 ^ 64 := by
    have := d.isLt
    have := s.time.isLt
    simp only [BitVec.toNat_sub]
    omega
  obtain ⟨h1, h2⟩ := h
  rw [expiryAt_eq, if_pos (by omega)]

/-- A due timer may expire where none is late. -/
theorem mayExpire_closed {x : TimerId} {s : State} {d : Time} (ht : TimersInTime s) (h : Closed s.time d x.unit) :
    mayExpire x d s = true := by
  rw [mayExpire_iff, expiryAt_closed x.unit_pos h]
  exact fun y _ => ht.2 y

theorem expiryTime_closed {x : TimerId} {s : State} {d : Time} (h : Closed s.time d x.unit) :
    expiryTime s.time d = s.time := expiryAt_closed x.unit_pos h

/-! ### The commands -/

section
variable {s : State} {d : Time}

theorem exec_idleDeadlineExpiry (t : Tag) (h : Awake s) (hd : s.contexts[t].deadline = some d) :
    exec (.idleDeadlineExpiry t) s =
      .next (if s.contexts[t].state = .active ∧ mayExpire (.idle t) d s = true
        then transmit (expireIdle t { s with time := s.expiryAt d }) else s) := by
  refine (atEvent_awake (f := fun s => match s.contexts[t].deadline with
    | some d => if s.contexts[t].state = .active ∧ mayExpire (.idle t) d s
        then transmit (expireIdle t { s with time := expiryTime s.time d }) else s
    | none => s) h).trans ?_
  simp only [hd]
  rfl

theorem exec_drainTimerExpiry {k : SlotIx} (h : Awake s) (hd : runningDrain s = some (k, d)) :
    exec .drainTimerExpiry s =
      .next (if mayExpire .drain d s = true then transmit (expireDrain k { s with time := s.expiryAt d }) else s) := by
  refine (atEvent_awake (f := fun s => match runningDrain s with
    | some (k, d) => if mayExpire .drain d s
        then transmit (expireDrain k { s with time := expiryTime s.time d }) else s
    | none => s) h).trans ?_
  simp only [hd]
  rfl

theorem exec_autoLockExpiry (h : Awake s) (hd : s.autoLock = some d) :
    exec .autoLockExpiry s =
      .next (if mayExpire .autoLock d s = true then transmit (expireAutoLock { s with time := s.expiryAt d }) else s) := by
  refine (atEvent_awake (f := fun s => match s.autoLock with
    | some d => if mayExpire .autoLock d s
        then transmit (expireAutoLock { s with time := expiryTime s.time d }) else s
    | none => s) h).trans ?_
  simp only [hd]
  rfl

theorem exec_idleDeadlineExpiry_none (t : Tag) (h : Awake s) (hd : s.contexts[t].deadline = none ∨ s.contexts[t].state ≠ .active) :
    exec (.idleDeadlineExpiry t) s = .next s := by
  cases hs : s.contexts[t].deadline with
  | some d =>
    rw [hs] at hd
    rw [exec_idleDeadlineExpiry t h hs, if_neg fun ha => hd.elim nofun (· ha.1)]
  | none =>
    refine (atEvent_awake (f := fun s => match s.contexts[t].deadline with
      | some d => if s.contexts[t].state = .active ∧ mayExpire (.idle t) d s
          then transmit (expireIdle t { s with time := expiryTime s.time d }) else s
      | none => s) h).trans ?_
    simp only [hs]

theorem exec_drainTimerExpiry_none (h : Awake s) (hd : runningDrain s = none) : exec .drainTimerExpiry s = .next s := by
  refine (atEvent_awake (f := fun s => match runningDrain s with
    | some (k, d) => if mayExpire .drain d s
        then transmit (expireDrain k { s with time := expiryTime s.time d }) else s
    | none => s) h).trans ?_
  simp only [hd]

theorem exec_autoLockExpiry_none (h : Awake s) (hd : s.autoLock = none) : exec .autoLockExpiry s = .next s := by
  refine (atEvent_awake (f := fun s => match s.autoLock with
    | some d => if mayExpire .autoLock d s
        then transmit (expireAutoLock { s with time := expiryTime s.time d }) else s
    | none => s) h).trans ?_
  simp only [hd]

/-! ### A due timer in an idle step -/

theorem autoLockDue_closed (hd : s.autoLock = some d) (h : Closed s.time d 1000) :
    autoLockDue s = transmit (expireAutoLock s) := by
  simp only [autoLockDue, hd, windowClosed_iff.mpr h, if_true]

theorem drainDue_closed {k : SlotIx} (hd : runningDrain s = some (k, d)) (h : Closed s.time d 1000) :
    drainDue s = transmit (expireDrain k s) := by
  simp only [drainDue, hd, windowClosed_iff.mpr h, if_true]

theorem idleDue_closed {t : Tag} (hd : s.contexts[t].deadline = some d) (ha : s.contexts[t].state = .active)
    (h : Closed s.time d 100) : idleDue t s = transmit (expireIdle t s) := by
  simp only [idleDue, hd, ha, windowClosed_iff.mpr h, and_self, if_true]

/-- A due auto-lock timer expires by its command as in an idle step. -/
theorem exec_autoLockDue (h : Awake s) (ht : TimersInTime s) (hf : FirstDue .autoLock s) :
    exec .autoLockExpiry s = .next (autoLockDue s) := by
  obtain ⟨⟨d, hd, hc⟩, -⟩ := hf
  have hd' : s.autoLock = some d := hd
  rw [exec_autoLockExpiry h hd', if_pos (mayExpire_closed ht hc), expiryAt_closed (by decide) hc, autoLockDue_closed hd' hc]

/-- A due drain timer expires by its command as in an idle step. -/
theorem exec_drainDue (h : Awake s) (ht : TimersInTime s) (hf : FirstDue .drain s) :
    exec .drainTimerExpiry s = .next (drainDue s) := by
  obtain ⟨⟨d, hd, hc⟩, -⟩ := hf
  have hrun := runningDrain_deadline s
  rw [show s.deadlineOf .drain = some d from hd] at hrun
  obtain ⟨⟨k, d'⟩, hk, rfl⟩ := Option.map_eq_some_iff.mp hrun
  rw [exec_drainTimerExpiry h hk, if_pos (mayExpire_closed ht hc), expiryAt_closed (by decide) hc, drainDue_closed hk hc]

theorem deadlineOf_idle {t : Tag} (hd : d ∈ s.deadlineOf (.idle t)) :
    s.contexts[t].state = .active ∧ s.contexts[t].deadline = some d := by
  simp only [State.deadlineOf] at hd
  split_ifs at hd with ha
  · exact ⟨ha, hd⟩
  · cases hd

/-- A due idle deadline expires by its command as in an idle step. -/
theorem exec_idleDue {t : Tag} (h : Awake s) (ht : TimersInTime s) (hf : FirstDue (.idle t) s) :
    exec (.idleDeadlineExpiry t) s = .next (idleDue t s) := by
  obtain ⟨⟨d, hd, hc⟩, -⟩ := hf
  obtain ⟨ha, hd'⟩ := deadlineOf_idle hd
  rw [exec_idleDeadlineExpiry t h hd', if_pos ⟨ha, mayExpire_closed ht hc⟩, expiryAt_closed (TimerId.unit_pos (.idle t)) hc,
    idleDue_closed hd' ha hc]

end

/-! ### What the auto-lock expiry does -/

theorem lockedRecord_eq (r : RangeRecord) :
    lockedRecord r = if r.enabled = true ∧ r.linkLock = true then { r with readLock := true, writeLock := true } else r := by
  simp only [lockedRecord, Bool.and_eq_true]

/-- What the auto-lock expiry changes at once (R155), before a directive that fills a slot fails. -/
def autoLocked (s : State) : State :=
  { s.flagged Flag.linkLocked with
    autoLock := none, wrapping := Vector.replicate 4 none,
    ranges := s.ranges.map (fun r => if r.enabled = true ∧ r.linkLock = true
      then { r with readLock := true, writeLock := true } else r) }

theorem expireAutoLock_eq (s : State) :
    expireAutoLock s = match filledSlot s with
      | some k => failFilling k .noWrap (autoLocked s)
      | none => autoLocked s := by
  have hrange : s.ranges.map lockedRecord = s.ranges.map (fun r => if r.enabled = true ∧ r.linkLock = true
      then { r with readLock := true, writeLock := true } else r) := by
    congr 1
    funext r
    exact lockedRecord_eq r
  rw [expireAutoLock, lockRanges_eq, autoLocked]
  dsimp only
  rw [hrange]
  unfold zeroiseEntries filledSlot
  dsimp only
  rcases hdu : s.du with _ | ⟨_ | _ | _ | _, _⟩ <;> simp only [raise_eq, State.flagged, hdu]

theorem expireAutoLock_filling {k : SlotIx} {s : State} (h : filledSlot s = some k) :
    expireAutoLock s = failFilling k .noWrap (autoLocked s) := by
  rw [expireAutoLock_eq, h]

theorem expireAutoLock_idle {s : State} (h : filledSlot s = none) : expireAutoLock s = autoLocked s := by
  rw [expireAutoLock_eq, h]

/-- What the auto-lock expiry leaves, whatever the unit does: the timer stopped, the entries EMPTY, the marked ranges locked
and no slot left FILLING by a directive (R46, R155). -/
theorem expireAutoLock_leaves (s : State) :
    let t := expireAutoLock s
    t.autoLock = none ∧ t.wrapping = (autoLocked s).wrapping ∧ t.ranges = (autoLocked s).ranges ∧
      t.events = (autoLocked s).events ∧ t.time = s.time ∧ filledSlot t = none := by
  dsimp only
  cases h : filledSlot s with
  | none =>
    rw [expireAutoLock_idle h]
    exact ⟨rfl, rfl, rfl, rfl, rfl, h⟩
  | some k =>
    rw [expireAutoLock_filling h]
    have hc := failFilling_calm k .noWrap (autoLocked s)
    exact ⟨hc.autoLock, hc.wrapping, hc.ranges, hc.events, hc.time, (idle_unit (answer_du ..)).1⟩

theorem filledSlot_transmit (s : State) : filledSlot (transmit s) = filledSlot s := by
  unfold filledSlot
  rw [transmit_du]

/-! ### The rest of the idle step -/

theorem failFilling_inReset (k : SlotIx) (r : Result) (s : State) : (failFilling k r s).inReset = s.inReset :=
  (failFilling_calm k r s).inReset

theorem autoLockDue_inReset (s : State) : (autoLockDue s).inReset = s.inReset := by
  unfold autoLockDue
  split
  · split_ifs
    · rw [transmit_inReset, expireAutoLock_eq]
      split
      · rw [failFilling_inReset]
        rfl
      · rfl
    · rfl
  · rfl

theorem stopDrainTimer_inReset (s : State) : (stopDrainTimer s).inReset = s.inReset := by
  unfold stopDrainTimer
  split <;> rfl

theorem drainDue_inReset (s : State) : (drainDue s).inReset = s.inReset := by
  unfold drainDue
  split
  · split_ifs
    · rw [transmit_inReset, expireDrain, heads_inReset, (cutTransfers_calm _ _).inReset]
      exact stopDrainTimer_inReset s
    · rfl
  · rfl

theorem idleDue_inReset (t : Tag) (s : State) : (idleDue t s).inReset = s.inReset := by
  unfold idleDue
  split
  · split_ifs
    · rw [transmit_inReset]
      unfold expireIdle
      split_ifs
      · rw [heads_inReset, (endTransfer_calm _ _ _ _).inReset]
      · rfl
    · rfl
  · rfl

section
variable {s : State}

theorem tick_of_expiredAll {u : State} (hs : s.inReset = false) (hu : u.inReset = false) (h : expiredAll s = expiredAll u) :
    tick s = tick u := by
  rw [tick_eq hs, tick_eq hu, h]

theorem tick_autoLockDue (h : Awake s) (hl : LimitsStored s) : tick s = tick (autoLockDue s) := by
  refine tick_of_expiredAll h.1 ((autoLockDue_inReset s).trans h.1) ?_
  rw [expiredAll, expiredAll, serveHeads_awake h.2, serveHeads_awake (autoLockDue_rests s h.2),
    autoLockDue_none (autoLockDue_notDue hl)]

theorem tick_drainDue (h : Awake s) (hl : LimitsStored s) (hf : FirstDue .drain s) : tick s = tick (drainDue s) := by
  have hlock : NotDue .autoLock s := hf.2 .autoLock (by decide)
  refine tick_of_expiredAll h.1 ((drainDue_inReset s).trans h.1) ?_
  rw [expiredAll, expiredAll, serveHeads_awake h.2, serveHeads_awake (drainDue_rests s h.2), autoLockDue_none hlock,
    autoLockDue_none ((drainDue_brisk s).notDue hl hlock), drainDue_none (drainDue_notDue hl)]

/-- The tags before one and those after it. -/
theorem allTags_split (t : Tag) : ∃ before after, allTags = before ++ t :: after ∧ ∀ i ∈ before, i.val < t.val := by
  obtain ⟨before, after, hsplit⟩ := List.append_of_mem (List.mem_finRange t)
  refine ⟨before, after, hsplit, fun i hi => ?_⟩
  have hsorted := List.pairwise_lt_finRange 64
  rw [hsplit] at hsorted
  exact (List.pairwise_append.mp hsorted).2.2 i hi t List.mem_cons_self

theorem tick_idleDue {t : Tag} (h : Awake s) (hl : LimitsStored s) (hf : FirstDue (.idle t) s) :
    tick s = tick (idleDue t s) := by
  have hlock : NotDue .autoLock s := hf.2 .autoLock (by simp [TimerId.rank])
  have hdrain : NotDue .drain s := hf.2 .drain (by simp [TimerId.rank]; omega)
  obtain ⟨before, after, hsplit, hbefore⟩ := allTags_split t
  have hidle (i : Tag) (hi : i ∈ before) : NotDue (.idle i) s :=
    hf.2 (.idle i) (by have := hbefore i hi; simp only [TimerId.rank]; omega)
  have hb := idleDue_brisk t s
  refine tick_of_expiredAll h.1 ((idleDue_inReset t s).trans h.1) ?_
  rw [expiredAll, expiredAll, serveHeads_awake h.2, serveHeads_awake (idleDue_rests t s h.2), autoLockDue_none hlock,
    autoLockDue_none (hb.notDue hl hlock), drainDue_none hdrain, drainDue_none (hb.notDue hl hdrain), hsplit,
    List.foldl_append, List.foldl_append, foldl_unchanged _ _ _ fun i hi => idleDue_none (hidle i hi),
    foldl_unchanged _ _ _ fun i hi => idleDue_none (hb.notDue hl (hidle i hi)), List.foldl_cons, List.foldl_cons,
    idleDue_none (idleDue_notDue hl)]

end

/-! ### Cutting the transfers of a drain set -/

/-- An ending by a cause of Table 4-5, in every state of its context (R78). -/
theorem endTransfer_eq (t : Tag) (e : Ending) (fail : Option Nat) (s : State) :
    endTransfer t e fail s = if s.contexts[t].state.running = true then s.cleared t e fail else s := by
  by_cases hrun : s.contexts[t].state.running = true
  · rw [if_pos hrun, endTransfer_cleared hrun]
  · rw [if_neg hrun, endTransfer_elsewhere (Bool.eq_false_iff.mpr hrun)]

theorem cutTransfers_eq (tags : List Tag) (s : State) : cutTransfers tags s = s.cut tags := by
  unfold cutTransfers State.cut
  simp only [endTransfer_eq]

theorem expireDrain_eq {k : SlotIx} {goal : DrainGoal} {timer : Option Time} {silent : Bool} {s : State}
    (h : s.du = some ⟨.draining k goal timer, silent⟩) :
    expireDrain k s = heads (cutTransfers s.slots[k].drainSet
      { s.flagged Flag.drainCut with du := some ⟨.draining k goal none, silent⟩ }) := by
  have hstop : stopDrainTimer s = { s with du := some ⟨.draining k goal none, silent⟩ } := by
    simp only [stopDrainTimer, h]
  rw [expireDrain, hstop]
  rfl

/-- The ending of a transfer without a frame at the front head leaves heads at rest. -/
theorem heads_ended {t : Tag} {e : Ending} {fail : Option Nat} {s : State} (h : AtRest s)
    (hh : ∀ q ∈ s.fiq.head?, frameTag q.frame ≠ t) : heads (s.ended t e fail) = s.ended t e fail :=
  heads_after_context h rfl rfl rfl (fun _ hi => set_get_ne _ _ hi.symm) hh

/-- With empty intake queues the heads have nothing to take. -/
theorem heads_empty {s : State} (hf : s.fiq = []) (hm : s.miq = []) : heads s = s :=
  heads_rest (by simp [hf]) (.inl hm)

theorem runningDrain_eq {k : SlotIx} {goal : DrainGoal} {d : Time} {silent : Bool} {s : State}
    (h : s.du = some ⟨.draining k goal (some d), silent⟩) : runningDrain s = some (k, d) := by
  simp only [runningDrain, h]

theorem runningDrain_none {s : State} (h : ∀ k goal d silent, s.du ≠ some ⟨.draining k goal (some d), silent⟩) :
    runningDrain s = none := by
  unfold runningDrain
  split
  · next k goal d silent hdu => exact absurd hdu (h k goal d silent)
  · rfl

end Sys2Proof.Machine

namespace Sys2Proof.Machine

/-- Settles O44: the command on what the expiry does, and the turn that the timer has in an idle step. -/
theorem autoLockExpires : Obligations.AutoLockExpires := by
  refine fun s h => ⟨fun d hd hn => ⟨?_, fun hfill => ?_, ?_⟩, fun d hd hn => ?_, exec_autoLockExpiry_none h,
    fun ht hf u hu => ?_⟩
  · refine ⟨_, (exec_autoLockExpiry h hd).trans (by rw [if_pos (mayExpire_iff.mpr hn)]), ?_⟩
    obtain ⟨hal, hw, hr, he, ht, hf⟩ := expireAutoLock_leaves { s with time := s.expiryAt d }
    simp only [transmit_autoLock, transmit_wrapping, transmit_ranges, transmit_events, transmit_time]
    exact ⟨hal, hw, hr, he, ht, (filledSlot_transmit _).trans hf⟩
  · rw [exec_autoLockExpiry h hd, if_pos (mayExpire_iff.mpr hn), expireAutoLock_idle (by exact hfill)]
    rfl
  · intro task silent done e rest k hruns hfill
    rw [exec_autoLockExpiry h hd, if_pos (mayExpire_iff.mpr hn), expireAutoLock_filling (by exact hfill)]
    exact congrArg _ (congrArg _ (answer_of_runs hruns (silentUnit_doing (x := ⟨task, silent⟩) hruns.2.1) rfl))
  · rw [exec_autoLockExpiry h hd, if_neg fun hx => hn (mayExpire_iff.mp hx)]
  · rw [exec_autoLockDue h ht hf] at hu
    cases hu
    exact tick_autoLockDue h ht.1

/-- Settles O43: the command, and the turn that the deadline has in an idle step. -/
theorem idleDeadlineExpires : Obligations.IdleDeadlineExpires := by
  refine ⟨fun t s h => ⟨fun d hd ha => ⟨fun hn => ⟨?_, fun hu hr => ?_⟩, fun hn => ?_⟩, fun hno => ?_,
    fun ht hf u hu => ?_⟩, expiryAt_eq, stepKeeps_timersInTime⟩
  · rw [exec_idleDeadlineExpiry t h hd, if_pos ⟨ha, mayExpire_iff.mpr hn⟩, expireIdle, if_pos (by exact ha),
      endTransfer_cleared (by exact (congrArg _ ha).trans rfl)]
  · rw [exec_idleDeadlineExpiry t h hd, if_pos ⟨ha, mayExpire_iff.mpr hn⟩, expireIdle, if_pos (by exact ha),
      endTransfer_unencumbered (by exact (congrArg _ ha).trans rfl) (by exact hu)]
    exact congrArg _ (congrArg _ (heads_ended hr hu.2.2.1))
  · rw [exec_idleDeadlineExpiry t h hd, if_neg fun hx => hn (mayExpire_iff.mp hx.2)]
  · exact exec_idleDeadlineExpiry_none t h hno
  · rw [exec_idleDue h ht hf] at hu
    cases hu
    exact tick_idleDue h ht.1 hf

end Sys2Proof.Machine
end

section
/-! PROOFS. What the endings of transfers do to the Directive Unit; ABANDON TRANSFER, and the drain of a slot in use. -/

namespace Sys2Proof.Machine

/-! ### The Directive Unit while it drains no slot -/

/-- Unless a drain runs, the Directive Unit and its queue stay. -/
structure UnitStays (s t : State) : Prop where
  keep : drainedSlot s = none → t.du = s.du ∧ t.drq = s.drq

theorem UnitStays.refl (s : State) : UnitStays s s := ⟨fun _ => ⟨rfl, rfl⟩⟩

theorem drainedSlot_congr {s t : State} (h : t.du = s.du) : drainedSlot t = drainedSlot s := by
  unfold drainedSlot
  rw [h]

theorem UnitStays.trans {s t u : State} (h : UnitStays s t) (h' : UnitStays t u) : UnitStays s u := by
  refine ⟨fun hd => ?_⟩
  obtain ⟨hdu, hq⟩ := h.keep hd
  obtain ⟨hdu', hq'⟩ := h'.keep ((drainedSlot_congr hdu).trans hd)
  exact ⟨hdu'.trans hdu, hq'.trans hq⟩

theorem UnitStays.of_eq {s t : State} (hdu : t.du = s.du) (hq : t.drq = s.drq) : UnitStays s t := ⟨fun _ => ⟨hdu, hq⟩⟩

theorem UnitStays.foldl {α : Type} {f : State → α → State} (h : ∀ s a, UnitStays s (f s a)) (l : List α) (s : State) :
    UnitStays s (l.foldl f s) := by
  induction l generalizing s with
  | nil => exact .refl s
  | cons a l ih => exact (h s a).trans (ih (f s a))

theorem leaveDrain_unit (t : Tag) (s : State) : UnitStays s (leaveDrain t s) := by
  refine ⟨fun h => ?_⟩
  rw [leaveDrain_undrained t h]
  exact ⟨rfl, rfl⟩

theorem putContext_unit (t : Tag) (c : Context) (s : State) : UnitStays s (putContext t c s) := .of_eq rfl rfl

theorem enterReporting_unit (t : Tag) (s : State) : UnitStays s (enterReporting t s) := by
  have h := leaveDrain_unit t
    { putContext t { s.contexts[t] with state := .reporting, deadline := none } s with
      rpq := s.rpq ++ [completionFrame t { s.contexts[t] with state := .reporting, deadline := none }] }
  exact ⟨fun hd => h.keep hd⟩

theorem freeContext_unit (t : Tag) (s : State) : UnitStays s (freeContext t s) :=
  (putContext_unit t Context.free s).trans (leaveDrain_unit t _)

theorem leaveEnding_unit (t : Tag) (s : State) : UnitStays s (leaveEnding t s) := by
  unfold leaveEnding
  split_ifs
  · exact freeContext_unit t s
  · exact enterReporting_unit t s
  · exact .refl s

theorem discardOutput_unit (l : LaneIx) (j : Job) (s : State) : UnitStays s (discardOutput l j s) :=
  have hlane : UnitStays s (releaseLane l j s) := .of_eq rfl rfl
  hlane.trans (leaveEnding_unit ..)

theorem discardHeldRead_unit (t : Tag) (l : LaneIx) (s : State) : UnitStays s (discardHeldRead t l s) := by
  unfold discardHeldRead
  split
  · split_ifs
    · exact discardOutput_unit ..
    · exact .refl s
  · exact .refl s

theorem discardHeldWrite_unit (l : LaneIx) (s : State) : UnitStays s (discardHeldWrite l s) := by
  unfold discardHeldWrite
  split
  · exact discardOutput_unit ..
  · exact .refl s

theorem popIntake_unit (p : PortId) (s : State) : UnitStays s (popIntake p s) := by
  cases p <;> exact .of_eq rfl rfl

theorem discardFrontHead_unit (t : Tag) (s : State) : UnitStays s (discardFrontHead t s) := by
  unfold discardFrontHead
  split_ifs
  · exact popIntake_unit ..
  · exact .refl s

theorem discardMediaHead_unit (t : Tag) (s : State) : UnitStays s (discardMediaHead t s) := by
  unfold discardMediaHead
  split_ifs
  · exact popIntake_unit ..
  · exact .refl s

theorem enterEnding_unit (t : Tag) (c : Context) (s : State) : UnitStays s (enterEnding t c s) :=
  ((((putContext_unit t { c with state := .ending, deadline := none } s).trans (discardFrontHead_unit t _)).trans
    (discardMediaHead_unit t _)).trans (UnitStays.foldl (fun s l => discardHeldRead_unit t l s) _ _)).trans
      (leaveEnding_unit t _)

theorem endTransfer_unit (t : Tag) (e : Ending) (fail : Option Nat) (s : State) : UnitStays s (endTransfer t e fail s) := by
  unfold endTransfer
  split_ifs
  · exact enterEnding_unit ..
  · exact .refl s

theorem frontLossContext_unit (t : Tag) (s : State) : UnitStays s (frontLossContext t s) := by
  unfold frontLossContext
  dsimp only
  split
  · exact .refl s
  · exact enterEnding_unit ..
  · exact enterEnding_unit ..
  · exact (putContext_unit ..).trans (leaveEnding_unit ..)
  · exact freeContext_unit ..

/-! ### Leaving a drain set, and the end of a drain (R56, R58, R59) -/

section
variable {t : Tag} {k : SlotIx} {goal : DrainGoal} {timer : Option Time} {silent : Bool} {s : State}

theorem leaveDrain_outside (h : ∀ k goal timer silent, s.du = some ⟨.draining k goal timer, silent⟩ → t ∉ s.slots[k].drainSet) :
    leaveDrain t s = s := by
  unfold leaveDrain
  split
  · next k goal timer silent hdu =>
    have hnot := h k goal timer silent hdu
    dsimp only
    rw [if_neg (by simpa [-Fin.getElem_fin] using hnot)]
  · rfl

theorem leaveDrain_inside (hdu : s.du = some ⟨.draining k goal timer, silent⟩) (ht : t ∈ s.slots[k].drainSet) :
    leaveDrain t s =
      if s.slots[k].drainSet.filter (fun i => i ≠ t) = [] then
        completeDrain k goal (putSlot k { s.slots[k] with drainSet := [] } s)
      else putSlot k { s.slots[k] with drainSet := s.slots[k].drainSet.filter (fun i => i ≠ t) } s := by
  have hfilter : s.slots[k].drainSet.filter (· != t) = s.slots[k].drainSet.filter (fun i => i ≠ t) := by
    congr 1
    funext i
    rw [Bool.eq_iff_iff]
    simp
  simp only [leaveDrain, hdu]
  rw [if_pos (by simpa [-Fin.getElem_fin] using ht), hfilter]
  split_ifs with h1 h2 h2
  · rw [List.isEmpty_iff] at h1
    rw [h1]
  · exact absurd (List.isEmpty_iff.mp h1) h2
  · exact absurd (List.isEmpty_iff.mpr h2) h1
  · rfl

theorem emptySlot_putSlot (l : List Tag) :
    emptySlot k (putSlot k { s.slots[k] with drainSet := l } s) =
      { s with slots := s.slots.set k { s.slots[k] with state := .empty, dataKey := 0, tweakKey := 0, drainSet := [] } } := by
  simp only [emptySlot, putSlot, set_get_self, set_set_self]

theorem fillingSlot_putSlot (l : List Tag) :
    fillingSlot k (putSlot k { s.slots[k] with drainSet := l } s) =
      { s with
        slots := s.slots.set k { s.slots[k] with state := .filling, dataKey := 0, tweakKey := 0, drainSet := [] } } := by
  simp only [fillingSlot, putSlot, set_get_self, set_set_self]

/-- The slot of a complete drain: its keys are gone (R58, R59). -/
def bareSlot (k : SlotIx) (x : SlotState) (s : State) : State :=
  { s with slots := s.slots.set k { s.slots[k] with state := x, dataKey := 0, tweakKey := 0, drainSet := [] } }

/-- An answer given while a directive runs: in the open, or in silence (R98, R138). -/
theorem answer_of_doing {task : Task} {r : Result} {data : Bytes} {done rest : List DrqEntry} {e : DrqEntry}
    (hdu : s.du = some ⟨task, silent⟩) (hn : Next done e rest s) :
    answer r data s = s.concluded silent r data done e rest := by
  have hs : silentUnit s = silent := silentUnit_doing hdu
  cases silent
  · exact answer_next hn hs
  · exact answer_silent hn hs

section
variable (hdu : s.du = some ⟨.draining k goal timer, silent⟩) (ht : t ∈ s.slots[k].drainSet)
  (hleft : s.slots[k].drainSet.filter (fun i => i ≠ t) = [])
include hdu ht hleft

theorem leaveDrain_discard {done rest : List DrqEntry} {e : DrqEntry} (hn : Next done e rest s) (hg : goal = .discard) :
    leaveDrain t s = (bareSlot k .empty s).concluded silent .ok [] done e rest := by
  rw [leaveDrain_inside hdu ht, if_pos hleft, hg, completeDrain_discard, emptySlot_putSlot]
  exact answer_of_doing hdu hn

theorem leaveDrain_failed {done rest : List DrqEntry} {e : DrqEntry} {n : EntryIx} {g : Generation} (hn : Next done e rest s)
    (hg : goal = .rekey n g) (hr : s.random = .failed) :
    leaveDrain t s = (bareSlot k .empty s).concluded silent .randomFailed [] done e rest := by
  rw [leaveDrain_inside hdu ht, if_pos hleft, hg, completeDrain_failed (by exact hr), emptySlot_putSlot]
  exact answer_of_doing hdu hn

theorem leaveDrain_rekey {n : EntryIx} {g : Generation} (hg : goal = .rekey n g) (hr : s.random ≠ .failed) :
    leaveDrain t s = { bareSlot k .filling s with du := some ⟨.filling k n g, silent⟩ } := by
  have hs (r : SlotRecord) : silentUnit (putSlot k r s) = silent := silentUnit_doing (x := ⟨_, silent⟩) hdu
  rw [leaveDrain_inside hdu ht, if_pos hleft, hg, completeDrain_rekey (by exact hr), fillingSlot_putSlot, hs]
  rfl

end

end

/-! ### Job completion -/

theorem exec_laneJobCompletion {l : LaneIx} {j : Job} {s : State} (h : Awake s) (hl : s.lanes[l] = .running j) :
    exec (.laneJobCompletion l) s = .next (transmit (completeJob l j s)) := by
  refine (atEvent_awake (f := fun s => match s.lanes[l] with
    | .running j => transmit (completeJob l j s)
    | _ => s) h).trans ?_
  simp only [hl]

/-- What the last job of a transfer that is ENDING leaves of it: it is REPORTING, with its COMPLETION (R80, R81). -/
def lastReported (t : Tag) (s : State) : State :=
  { s with
    contexts := s.contexts.set t { s.contexts[t] with state := .reporting, deadline := none },
    rpq := s.rpq ++ [completionFrame t { s.contexts[t] with state := .reporting, deadline := none }] }

theorem released_drainSet (l : LaneIx) (j : Job) (s : State) (k : SlotIx) :
    (s.released l j).slots[k].drainSet = s.slots[k].drainSet := by
  simp only [State.released, set_get]
  split_ifs with h
  · subst h
    rfl
  · rfl

/-- The completion of the last job of a READ transfer that is ENDING (R80, R106). -/
theorem exec_lastReadJob {l : LaneIx} {j : Job} {s : State} (h : Awake s) (hl : s.lanes[l] = .running j)
    (hread : ∃ region clear trailer, j.sector = .ciphered region clear trailer)
    (hend : s.contexts[j.tag].state = .ending) (hsup : s.contexts[j.tag].suppressed = false)
    (hjobs : s.contexts[j.tag].jobs = 1) :
    exec (.laneJobCompletion l) s = .next (transmit (leaveDrain j.tag (lastReported j.tag (s.released l j)))) := by
  have hdir : j.direction = .read := by
    obtain ⟨region, clear, trailer, hj⟩ := hread
    rw [Job.direction, hj]
  have hoffered : outputOffered j s = false := by
    simp [-Fin.getElem_fin, outputOffered, hend, hdir, ContextState.running]
  have hrel : (s.released l j).contexts[j.tag] = { s.contexts[j.tag] with jobs := 0 } := by
    simp [-Fin.getElem_fin, State.released, hjobs]
  rw [exec_laneJobCompletion h hl, completeJob, hoffered]
  simp only [Bool.false_eq_true, if_false]
  rw [discardOutput, releaseLane_eq, leaveEnding, if_pos (by rw [hrel]; exact ⟨hend, rfl⟩), if_neg (by rw [hrel]; simp [-Fin.getElem_fin, hsup])]
  rfl

theorem modeParam_of {p : Bytes} {i mode : Nat} {m : DrainMode} (h : (byteAt p i).toNat = mode)
    (hm : (mode = 0 ∧ m = .wait) ∨ (mode = 1 ∧ m = .cut)) : modeParam p i = some m := by
  rcases hm with ⟨rfl, rfl⟩ | ⟨rfl, rfl⟩
  · exact modeParam_wait h
  · exact modeParam_cut h

/-- REKEY SLOT and DISCARD KEY that pass their checks begin the drain (R55). -/
theorem exec_beginsDrain {done rest : List DrqEntry} {e : DrqEntry} {c : Instr} {goal : DrainGoal} {mode : Nat} {k : SlotIx}
    {m : DrainMode} {s : State} (hstate : s.slots[k].state = .ready) (hk : param e 1 = k.val)
    (hc : (∃ n : EntryIx, Ready 8 6 done e rest s ∧ c = .rekeySlot ∧ param e 2 = n.val ∧ param e 5 = mode ∧
        s.wrapping[n] ≠ none ∧ s.random ≠ .failed ∧
        s.slots[k].generation ≠ BitVec.ofNat 16 (field e.frame.payload 3 2) ∧
        goal = .rekey n (BitVec.ofNat 16 (field e.frame.payload 3 2))) ∨
      (Ready 9 3 done e rest s ∧ c = .discardKey ∧ param e 2 = mode ∧ goal = .discard))
    (hm : (mode = 0 ∧ m = .wait) ∨ (mode = 1 ∧ m = .cut)) :
    exec c s = .next (transmit (beginDrain k goal m s)) := by
  rcases hc with ⟨n, h, rfl, hn, hmode, hentry, hr, hg, rfl⟩ | ⟨h, rfl, hmode, rfl⟩
  · have hg' : ¬ s.slots[k].generation = generationParam e.frame.payload 3 := hg
    rw [exec_rekeySlot h, rekeySlotBody_eq (indexParam_in hk) (indexParam_in hn) (modeParam_of hmode hm),
      if_neg (not_not_intro hstate), if_neg hentry, if_neg hr, if_neg hg']
    rfl
  · rw [exec_discardKey h, discardKeyBody_eq (indexParam_in hk) (modeParam_of hmode hm), if_neg (not_not_intro hstate)]

end Sys2Proof.Machine

namespace Sys2Proof.Machine

/-- Settles O56: the ending first, and then the answer of the unit, which is IDLE. -/
theorem abandonTransferEnds : Obligations.AbandonTransferEnds := by
  refine fun done e rest s h => ⟨fun t ht => ⟨fun hrun => ?_, fun hrun => ?_⟩, fun h63 => ?_⟩
  · have hbody : abandonTransferBody e.frame.payload s = heads (answer .ok [] (endTransfer t .abandoned none s)) := by
      simp only [abandonTransferBody, indexParam_in ht, hrun, if_true]
    obtain ⟨hdu, hq⟩ := (endTransfer_unit t .abandoned none s).keep (idle_unit h.2.1).2
    have hanswer := answer_of_ready (r := .ok) (data := []) h hdu hq
    rw [exec_abandonTransfer h, hbody, hanswer]
    refine ⟨by rw [endTransfer_cleared hrun], fun hu hr => ?_⟩
    rw [endTransfer_unencumbered hrun hu]
    exact congrArg _ (congrArg _ (heads_after_context hr rfl rfl rfl
      (fun _ hi => set_get_ne _ _ hi.symm) hu.2.2.1))
  · rw [exec_abandonTransfer h]
    simp only [abandonTransferBody, indexParam_in ht, hrun, Bool.false_eq_true, if_false]
    rw [answer_of_ready h rfl rfl]
  · rw [exec_abandonTransfer h, abandonTransferBody, indexParam_out h63]
    exact congrArg _ (congrArg _ (answer_of_ready h rfl rfl))

/-- Settles O55: the beginning of a drain, its timer, and its end. -/
theorem slotInUseDrains : Obligations.SlotInUseDrains := by
  refine ⟨fun s k => ⟨?_, ?_, fun h hno => exec_drainTimerExpiry_none h (runningDrain_none hno), fun h ht hf u hu => ?_⟩,
    fun t s => ⟨leaveDrain_outside, ?_⟩, ?_⟩
  · intro done e rest c goal mode hstate hset hk hc
    refine ⟨fun h0 => ?_, fun h1 => ?_⟩
    · rw [exec_beginsDrain hstate hk hc (.inl ⟨h0, rfl⟩), beginDrain_wait hset]
      rfl
    · rw [exec_beginsDrain hstate hk hc (.inr ⟨h1, rfl⟩), beginDrain_cut hset]
      refine ⟨?_, fun ⟨hf, hm, hheld, hjobs⟩ => ?_⟩
      · rw [cutTransfers_eq]
        rfl
      · rw [cutTransfers_stay _ (drainBegun k goal none s) hf hm hheld hjobs]
        exact congrArg _ (congrArg _ (heads_empty hf hm))
  · intro goal d silent h hdu
    have hrun := runningDrain_eq hdu
    refine ⟨fun hn => ?_, fun hn => ?_⟩
    · have hexec := (exec_drainTimerExpiry h hrun).trans (by rw [if_pos (mayExpire_iff.mpr hn)])
      rw [expireDrain_eq (by exact hdu)] at hexec
      refine ⟨hexec.trans ?_, fun ⟨hf, hm, hheld, hjobs⟩ => hexec.trans ?_⟩
      · rw [cutTransfers_eq]
        rfl
      · rw [cutTransfers_stay _ _ (by exact hf) (by exact hm) (by exact hheld) (by exact hjobs)]
        exact congrArg _ (congrArg _ (heads_empty hf hm))
    · rw [exec_drainTimerExpiry h hrun, if_neg fun hx => hn (mayExpire_iff.mp hx)]
  · rw [exec_drainDue h ht hf] at hu
    cases hu
    exact tick_drainDue h ht.1 hf
  · intro k goal timer silent hdu ht
    refine ⟨fun hne => ?_, fun hleft done e rest hn => ⟨leaveDrain_discard hdu ht hleft hn,
      fun n g hg => ⟨leaveDrain_rekey hdu ht hleft hg, leaveDrain_failed hdu ht hleft hn hg⟩⟩⟩
    rw [leaveDrain_inside hdu ht, if_neg hne]
    rfl
  · intro l j k goal timer silent done e rest s h hl hread hend hsup hjobs hset
    have hdrain : (lastReported j.tag (s.released l j)).slots[k].drainSet = [j.tag] :=
      (released_drainSet l j s k).trans hset
    have hmem : j.tag ∈ (lastReported j.tag (s.released l j)).slots[k].drainSet := by simp [-Fin.getElem_fin, hdrain]
    have hleft : (lastReported j.tag (s.released l j)).slots[k].drainSet.filter (fun i => i ≠ j.tag) = [] := by
      simp [-Fin.getElem_fin, hdrain]
    have hdu : (lastReported j.tag (s.released l j)).du = some ⟨.draining k goal timer, silent⟩ := h.2.1
    have hn : Next done e rest (lastReported j.tag (s.released l j)) := h.2.2
    rw [exec_lastReadJob h.1 hl hread hend hsup hjobs]
    refine ⟨fun hg => ?_, fun n g hg => ⟨fun hr => ?_, fun hr => ?_⟩⟩
    · rw [leaveDrain_discard hdu hmem hleft hn hg]
      rfl
    · rw [leaveDrain_rekey hdu hmem hleft hg hr]
      rfl
    · rw [leaveDrain_failed hdu hmem hleft hn hg hr]
      rfl

end Sys2Proof.Machine
end

section
/-! PROOFS. The cipher lanes: the grant, the completion of a job, the hand-off and the bypass (R101 to R110, R133). -/

namespace Sys2Proof.Machine

/-! ### The grant (R101 to R103) -/

theorem exec_laneJobStart {s : State} (h : Awake s) : exec .laneJobStart s = grantLane s := by
  change execLaneJobStart s = _
  rw [execLaneJobStart, h.1, serveHeads_awake h.2]
  rfl

/-- The job that a grant starts: its input set is taken whole from the range and the slot as they stand (R103). -/
def startedJob (side : PortId) (q : Queued) (k : SlotIx) (s : State) : Job :=
  let c := s.contexts[frameTag q.frame]
  let lba := c.start + frameIndex q.frame
  let r := lookup s.ranges lba
  let i := inputSet lba r s.ranges[r] s.slots[k] c.format
  { tag := frameTag q.frame, index := frameIndex q.frame, slot := k, inputs := i,
    sector := sectorBytes side i q.frame.payload }

theorem startJob_eq (l : LaneIx) (side : PortId) (q : Queued) (k : SlotIx) (s : State) :
    startJob l side q k s = State.took (frameTag q.frame) (frameIndex q.frame) 1
      { s.beheaded side with
        laneTurn := turnAfterGrant side,
        slots := s.slots.set k { s.slots[k] with pins := s.slots[k].pins + 1 },
        lanes := s.lanes.set l (.running (startedJob side q k s)) } := by
  cases side <;> rw [← took_eq] <;> rfl

theorem turnAfterGrant_eq (side : PortId) : turnAfterGrant side = if side = .front then .media else .front := by
  cases side <;> rfl

theorem grantLane_next {l : LaneIx} {side : PortId} {q : Queued} {k : SlotIx} {s : State} (hl : idleLane s = some l)
    (hg : Granted side q s) (hk : candidateSlot q s = some k) :
    grantLane s = .next (settle (startJob l side q k s)) := by
  simp only [grantLane, hl, grantedCandidate_iff.mpr hg, hk]

theorem grantLane_no_lane {s : State} (h : ∀ l : LaneIx, s.lanes[l] ≠ .idle) : grantLane s = .next s := by
  simp only [grantLane, idleLane_none.mpr h]

theorem grantedCandidate_none {s : State} (h : ∀ side q, ¬ Waits side q s) : grantedCandidate s = none := by
  by_contra hne
  obtain ⟨⟨side, q⟩, hq⟩ := Option.ne_none_iff_exists'.mp hne
  exact h side q (grantedCandidate_iff.mp hq).1

theorem grantLane_no_candidate {s : State} (h : ∀ side q, ¬ Waits side q s) : grantLane s = .next s := by
  unfold grantLane
  rw [grantedCandidate_none h]
  cases idleLane s <;> rfl

/-- The grant stops the model exactly for a candidate whose range names no slot (log entry 14). -/
theorem grantLane_fault_iff {s : State} :
    grantLane s = .fault .jobStartWithoutSlot ↔
      (∃ l : LaneIx, s.lanes[l] = .idle) ∧ ∃ side q, Granted side q s ∧ candidateSlot q s = none := by
  unfold grantLane
  constructor
  · intro h
    split at h
    · next l side q hl hg =>
      split at h
      · cases h
      · next hk =>
        refine ⟨?_, side, q, grantedCandidate_iff.mp hg, hk⟩
        by_contra hno
        rw [idleLane_none.mpr (not_exists.mp hno)] at hl
        cases hl
    · cases h
  · rintro ⟨⟨l, hl⟩, side, q, hg, hk⟩
    obtain ⟨l', hl'⟩ : ∃ l', idleLane s = some l' := by
      rw [← Option.ne_none_iff_exists']
      exact fun hno => idleLane_none.mp hno l hl
    simp only [hl', grantedCandidate_iff.mpr hg, hk]

/-! ### Job completion (R106 to R109) -/

section
variable {l : LaneIx} {j : Job} {s : State}

theorem targetQueue_write {plain : Bytes} (h : j.sector = .plain plain) : j.direction = .write ∧ targetQueue j = .moq := by
  simp only [targetQueue, Job.direction, h, and_self]

theorem targetQueue_read {region clear : Bytes} {t : Trailer} (h : j.sector = .ciphered region clear t) :
    j.direction = .read ∧ targetQueue j = .fsq := by
  simp only [targetQueue, Job.direction, h, and_self]

theorem outputOffered_iff :
    outputOffered j s = true ↔ s.contexts[j.tag].state.running = true ∨
      (s.contexts[j.tag].state = .ending ∧ j.direction = .write ∧ s.media.link = .up) := by
  simp only [outputOffered, Bool.or_eq_true, Bool.and_eq_true, beq_iff_eq, and_assoc]

theorem hasRoom_moq : hasRoom .moq s = true ↔ s.moq.length < 16 ∧ s.moqHold = [] := by
  rw [hasRoom, Bool.and_eq_true, decide_eq_true_eq, List.isEmpty_iff]
  rfl

theorem hasRoom_fsq : hasRoom .fsq s = true ↔ s.fsq.length < 16 ∧ s.fsqHold = [] := by
  rw [hasRoom, Bool.and_eq_true, decide_eq_true_eq, List.isEmpty_iff]
  rfl

theorem completeJob_enters {q : SectorQueue} (ho : outputOffered j s = true) (hq : targetQueue j = q)
    (hr : hasRoom q s = true) : completeJob l j s = enterOutput l j (outputFrame j s.contexts[j.tag]) q s := by
  rw [completeJob, if_pos ho, hq, offerOutput, if_pos hr]

theorem completeJob_holds {q : SectorQueue} (ho : outputOffered j s = true) (hq : targetQueue j = q)
    (hr : ¬ hasRoom q s = true) : completeJob l j s = holdOutput l j (outputFrame j s.contexts[j.tag]) q s := by
  rw [completeJob, if_pos ho, hq, offerOutput, if_neg hr]

/-- The output of a transfer that is ENDING is discarded where it is not offered (R106, R109). -/
theorem completeJob_discards (he : s.contexts[j.tag].state = .ending) (hd : j.direction = .read ∨ s.media.link = .down) :
    completeJob l j s = (s.released l j).closed j.tag := by
  have hno : ¬ outputOffered j s = true := by
    rw [outputOffered_iff, he]
    rintro (h | ⟨-, hw, hup⟩)
    · cases h
    · rcases hd with h | h
      · rw [hw] at h
        cases h
      · rw [hup] at h
        cases h
  rw [completeJob, if_neg hno, discardOutput, releaseLane_eq, leaveEnding_closed]
  simp [-Fin.getElem_fin, State.released, he]

theorem exec_laneJobCompletion_none (h : Awake s) (hl : ∀ j : Job, s.lanes[l] ≠ .running j) :
    exec (.laneJobCompletion l) s = .next s := by
  refine (atEvent_awake (f := fun s => match s.lanes[l] with
    | .running j => transmit (completeJob l j s)
    | _ => s) h).trans ?_
  cases hlane : s.lanes[l] with
  | running j => exact absurd hlane (hl j)
  | idle => rfl
  | holding j f q => rfl

/-! ### The hand-off and the bypass (R110, R133) -/

theorem exec_handOff (q : SectorQueue) (h : Awake s) :
    exec (.handOff q) s = .next (match handOffLane q s with
      | some (l, j, f) => transmit (enterOutput l j f q s)
      | none => s) :=
  (atEvent_awake (f := fun s => match handOffLane q s with
    | some (l, j, f) => transmit (enterOutput l j f q s)
    | none => s) h)

theorem handOffLane_first {q q' : SectorQueue} {rest : List LaneIx} {f : Frame} (hh : holdList q s = l :: rest)
    (hd : sectorDepth q s < 16) (hl : s.lanes[l] = .holding j f q') : handOffLane q s = some (l, j, f) := by
  have hd' : sectorDepth q s < Config.queueCapacity := hd
  simp only [handOffLane, hh, hd', hl, if_true]

theorem handOffLane_none {q : SectorQueue} (h : holdList q s = [] ∨ 16 ≤ sectorDepth q s) : handOffLane q s = none := by
  by_contra hne
  obtain ⟨⟨l, j, f⟩, hx⟩ := Option.ne_none_iff_exists'.mp hne
  obtain ⟨hhead, hdepth, -⟩ := handOffLane_some hx
  rcases h with h | h
  · rw [h] at hhead
    cases hhead
  · omega

theorem exec_bypassOffer (h : Awake s) :
    exec .bypassOffer s = .next (match waitingBypass s with
      | some (q, r) => settle (takeBypass q r s)
      | none => s) :=
  (atEvent_awake (f := fun s => match waitingBypass s with
    | some (q, r) => settle (takeBypass q r s)
    | none => s) h)

theorem bypassStatus_iff {v : Verdict} {r : ReadStatus} : bypassStatus v = some r ↔ Bypasses v r := by
  cases v <;> cases r <;> simp [bypassStatus, Bypasses]

/-- A bypass sector enters the FSQ, and the context may close (R74, R75, R132). -/
theorem takeBypass_eq {q : Queued} {r : ReadStatus} (hb : belongsToRead q s = true) :
    takeBypass q r s =
      State.closed (frameTag q.frame)
        (((s.beheaded .media).took (frameTag q.frame) (frameIndex q.frame) 0).delivered (frameTag q.frame) r
          (readFrame (frameTag q.frame) s.contexts[frameTag q.frame] (frameIndex q.frame) r
            (List.replicate (sectorLength s.contexts[frameTag q.frame].format) 0))) := by
  have hactive := belongsToRead_active hb
  rw [← finishTransfer_closed, ← took_eq, ← deliver_eq]
  · rfl
  · have hrun := take_running (idleDeadline (s.beheaded .media)) (frameIndex q.frame) 0
      (c := (s.beheaded .media).contexts[frameTag q.frame]) hactive
    rw [delivered_state, ← took_eq, putContext_contexts, set_get_self]
    intro he
    rw [he] at hrun
    cases hrun

theorem waitingBypass_head {q : Queued} {rest : List Queued} {v : Verdict} {r : ReadStatus} (hq : s.miq = q :: rest)
    (hv : s.verdict = some v) (hr : Bypasses v r) (hb : belongsToRead q s = true) (hl : s.fsq.length < 16)
    (hh : s.fsqHold = []) : waitingBypass s = some (q, r) := by
  simp only [waitingBypass, hq, hv, Option.bind_some, bypassStatus_iff.mpr hr, hb, hasRoom_fsq.mpr ⟨hl, hh⟩, Bool.and_self,
    if_true]

theorem waitingBypass_none (h : s.miq = [] ∨ s.verdict = none ∨ 16 ≤ s.fsq.length ∨ s.fsqHold ≠ []) :
    waitingBypass s = none := by
  by_contra hne
  obtain ⟨⟨q, r⟩, hx⟩ := Option.ne_none_iff_exists'.mp hne
  obtain ⟨hhead, hverdict, -, hroom⟩ := waitingBypass_some hx
  obtain ⟨hlen, hhold⟩ := hasRoom_fsq.mp hroom
  rcases h with h | h | h | h
  · rw [h] at hhead
    cases hhead
  · rw [h] at hverdict
    cases hverdict
  · omega
  · exact h hhold

end

end Sys2Proof.Machine

namespace Sys2Proof.Machine

/-- Settles O39: the grant, and when it does not arise. -/
theorem laneJobStarts : Obligations.LaneJobStarts := by
  refine ⟨fun l side q k s h hl hlow hg => ?_, fun s h hno => ?_, fun s h hno => ?_, fun s hw => ?_⟩
  · dsimp only
    intro hk
    rw [exec_laneJobStart h, grantLane_next (idleLane_lowest hl hlow) hg hk, settle, startJob_eq, turnAfterGrant_eq]
    cases side <;> rfl
  · rw [exec_laneJobStart h, grantLane_no_lane hno]
  · rw [exec_laneJobStart h, grantLane_no_candidate hno]
  · cases hr : s.inReset with
    | true =>
      refine iff_of_false ?_ (fun hx => by cases hx.1)
      rw [exec_held (c := .laneJobStart) hr nofun nofun]
      exact nofun
    | false =>
      rw [exec_laneJobStart ⟨hr, hw⟩, grantLane_fault_iff]
      exact (and_iff_right rfl).symm

/-- Settles O40. -/
theorem jobOutputEnters : Obligations.JobOutputEnters := by
  refine fun l j s h hl => ⟨fun plain hp hc hlen hhold => ?_, fun region clear t hp hc hlen hhold => ?_⟩
  · obtain ⟨hdir, htarget⟩ := targetQueue_write hp
    have ho := outputOffered_iff.mpr (hc.imp_right fun ⟨he, hup⟩ => ⟨he, hdir, hup⟩)
    rw [exec_laneJobCompletion h hl, completeJob_enters ho htarget (hasRoom_moq.mpr ⟨hlen, hhold⟩), enterOutput_moq]
  · obtain ⟨-, htarget⟩ := targetQueue_read hp
    rw [exec_laneJobCompletion h hl, completeJob_enters (outputOffered_iff.mpr (.inl hc)) htarget
      (hasRoom_fsq.mpr ⟨hlen, hhold⟩), enterOutput_fsq]

/-- Settles O41. -/
theorem jobOutputHeldOrDiscarded : Obligations.JobOutputHeldOrDiscarded := by
  refine fun l s h => ⟨fun j hl => ⟨fun plain hp hc hfull => ?_, fun region clear t hp hc hfull => ?_, fun he hd => ?_⟩,
    exec_laneJobCompletion_none h⟩
  · obtain ⟨hdir, htarget⟩ := targetQueue_write hp
    have ho := outputOffered_iff.mpr (hc.imp_right fun ⟨he, hup⟩ => ⟨he, hdir, hup⟩)
    have hno : ¬ hasRoom .moq s = true := fun hr => by
      obtain ⟨hlen, hhold⟩ := hasRoom_moq.mp hr
      exact hfull.elim (fun hf => by omega) fun hf => hf hhold
    rw [exec_laneJobCompletion h hl, completeJob_holds ho htarget hno]
    rfl
  · obtain ⟨-, htarget⟩ := targetQueue_read hp
    have hno : ¬ hasRoom .fsq s = true := fun hr => by
      obtain ⟨hlen, hhold⟩ := hasRoom_fsq.mp hr
      exact hfull.elim (fun hf => by omega) fun hf => hf hhold
    rw [exec_laneJobCompletion h hl, completeJob_holds (outputOffered_iff.mpr (.inl hc)) htarget hno]
    rfl
  · rw [exec_laneJobCompletion h hl, completeJob_discards he (hd.imp_left fun ⟨_, _, _, hp⟩ => (targetQueue_read hp).1)]

/-- Settles O42. -/
theorem freedPlacesAreGiven : Obligations.FreedPlacesAreGiven := by
  refine fun s h => ⟨fun l rest j f q hh hd hl => ?_, fun l rest j f q hh hd hl => ?_, fun hno => ?_, fun hno => ?_,
    fun q rest v r hq hv hr hb hlen hhold => ?_, fun hno => ?_⟩
  · simp only [exec_handOff _ h, handOffLane_first (q := .moq) hh hd hl, enterOutput_moq]
  · simp only [exec_handOff _ h, handOffLane_first (q := .fsq) hh hd hl, enterOutput_fsq]
  · simp only [exec_handOff _ h, handOffLane_none (q := .moq) hno]
  · simp only [exec_handOff _ h, handOffLane_none (q := .fsq) hno]
  · simp only [exec_bypassOffer h, waitingBypass_head hq hv hr hb hlen hhold, settle, takeBypass_eq hb]
    rfl
  · simp only [exec_bypassOffer h, waitingBypass_none hno]

end Sys2Proof.Machine
end

section
/-! PROOFS. Arrivals: the flow frames, what stays outside the intake queues, and what queues behind others (R86 to R91, R95). -/

namespace Sys2Proof.Machine

/-! ### Receptions by their class -/

section
variable {p : PortId} {f : Frame} {s : State}

theorem receive_bad (h : headerGood f = false) : receive p f s = s.flagged Flag.frameDamaged := by
  rw [receive, h]
  rfl

theorem receive_wrongKind (h : headerGood f = true) (hc : arrivalClass p f.header = .wrongKind) :
    receive p f s = s.flagged Flag.wrongKind := by
  rw [receive, h, hc]
  rfl

theorem receive_flow {x : Flow} (h : headerGood f = true) (hc : arrivalClass p f.header = .flow x) :
    receive p f s = hearFlow p x s := by
  rw [receive, h, hc]
  rfl

theorem receive_directive (h : headerGood f = true) (hc : arrivalClass p f.header = .directive) :
    receive p f s = enterDirective f s := by
  rw [receive, h, hc]
  rfl

theorem receive_intake (h : headerGood f = true) (hc : arrivalClass p f.header = .intake) :
    receive p f s = enterIntake p f s := by
  rw [receive, h, hc]
  rfl

/-- The kinds of transfer frames that a port's intake queue takes (R151, Table 10-1). -/
def transferKinds : PortId → List Nat
  | .front => [1, 2]
  | .media => [2, 6, 7]

theorem arrivalClass_of_transfer {h : Header} (hk : h.kind.toNat ∈ transferKinds p) (ht : h.tag.toNat ≤ 63) :
    arrivalClass p h = .intake := by
  rw [arrivalClass_eq]
  cases p <;> simp only [transferKinds, List.mem_cons, List.not_mem_nil, or_false] at hk <;>
    rw [if_neg (by omega), if_neg (by omega), if_pos ⟨by simp; omega, ht⟩]

theorem arrivalClass_wrongKind {h : Header}
    (hk : (p = .front ∧ h.kind.toNat ∉ [1, 2, 3, 8, 9]) ∨ (p = .media ∧ h.kind.toNat ∉ [2, 6, 7, 8, 9]) ∨
      (h.kind.toNat ∈ [1, 2, 6, 7] ∧ 63 < h.tag.toNat)) : arrivalClass p h = .wrongKind := by
  rw [arrivalClass_eq]
  simp only [List.mem_cons, List.not_mem_nil, or_false, not_or] at hk
  cases p <;> simp only [reduceCtorEq, true_and, false_and, false_or, or_false] at hk ⊢ <;>
    rw [if_neg (by omega), if_neg (by omega), if_neg (by omega)]
  rw [if_neg (by omega)]
  exact if_neg id

theorem hearFlow_eq (x : Flow) : hearFlow p x s = putPort p { s.port p with peerHold := x = .hold } s := by
  cases x <;> rfl

/-- A change of the ports leaves heads at rest. -/
theorem heads_putPort (x : Port) (h : AtRest s) : heads (putPort p x s) = putPort p x s := by
  cases p <;> exact heads_rest h.1 h.media

theorem exec_holdArrival (h : Listening p s) :
    exec (.holdArrival p) s = .next (transmit (putPort p { s.port p with peerHold := true } s)) := by
  change execHoldArrival p s = _
  unfold execHoldArrival
  rw [atEvent_awake h.1, if_neg (by rw [h.2]; exact Link.noConfusion)]
  rfl

theorem exec_goArrival (h : Listening p s) :
    exec (.goArrival p) s = .next (transmit (putPort p { s.port p with peerHold := false } s)) := by
  change execGoArrival p s = _
  unfold execGoArrival
  rw [atEvent_awake h.1, if_neg (by rw [h.2]; exact Link.noConfusion)]
  rfl

theorem exec_flowArrives {x : Flow} (h : Listening p s) (hr : AtRest s) (hg : headerGood f = true)
    (hc : arrivalClass p f.header = .flow x) :
    exec (.frameArrival p f) s = .next (transmit (hearFlow p x s)) := by
  rw [exec_frameArrival h, receive_flow hg hc]
  exact congrArg _ (congrArg _ (heads_putPort _ hr))

/-! ### Frames that queue -/

theorem enterIntake_room (h : (s.intake p).length < 16) :
    enterIntake p f s = putIntake p (s.intake p ++ [{ frame := f, damaged := payloadDamaged f }]) s :=
  if_neg (not_le.mpr h)

theorem enterIntake_full (h : 16 ≤ (s.intake p).length) :
    enterIntake p f s = endTransfer (frameTag f) .overrun (if f.header.kind.toNat = 1 then none else some f.header.index.toNat)
      (s.flagged (overrunFlag p)) := by
  have hk : f.header.kind = Kind.opening ↔ f.header.kind.toNat = 1 := byte_eq_iff _ 1 (by decide)
  rw [enterIntake, if_pos (by exact h)]
  simp only [hk]
  rfl

/-- Frames behind a head that waits leave the heads at rest. -/
theorem heads_queued {x : Queued} (h : AtRest s) (hne : s.intake p ≠ []) :
    heads (putIntake p (s.intake p ++ [x]) s) = putIntake p (s.intake p ++ [x]) s := by
  cases p with
  | front =>
    refine heads_rest (fun q hq => h.1 q ?_) h.media
    obtain ⟨a, as, has⟩ := List.exists_cons_of_ne_nil (show s.fiq ≠ [] from hne)
    change (s.fiq ++ [x]).head? = some q at hq
    rw [has] at hq ⊢
    exact hq
  | media =>
    exact heads_rest h.1 (.inr (h.2.1.mpr hne))

end

end Sys2Proof.Machine

namespace Sys2Proof.Machine

/-- Settles O30. -/
theorem flowFramesArrive : Obligations.FlowFramesArrive := by
  refine fun p s => ⟨fun h => ⟨exec_holdArrival h, exec_goArrival h, fun hr f hg => ⟨fun hk => ?_, fun hk => ?_⟩⟩,
    fun h hd => ⟨?_, ?_, fun f => ?_⟩⟩
  · have hc : arrivalClass p f.header = .flow .hold := by rw [arrivalClass_eq, if_pos hk]
    rw [exec_flowArrives h hr hg hc, exec_holdArrival h]
    rfl
  · have hc : arrivalClass p f.header = .flow .go := by rw [arrivalClass_eq, if_neg (by omega), if_pos hk]
    rw [exec_flowArrives h hr hg hc, exec_goArrival h]
    rfl
  · change execHoldArrival p s = _
    unfold execHoldArrival
    rw [atEvent_awake h, if_pos hd]
  · change execGoArrival p s = _
    unfold execGoArrival
    rw [atEvent_awake h, if_pos hd]
  · change execFrameArrival p f s = _
    unfold execFrameArrival
    rw [atEvent_awake h, if_pos hd]

/-- Settles O31, by the class of the frame. -/
theorem arrivalsOutsideTheIntake : Obligations.ArrivalsOutsideTheIntake := by
  refine fun p f s h hr => ⟨fun hg => ?_, fun hg hk => ?_, fun hg hp hk => ?_⟩
  · rw [exec_frameArrival h, receive_bad hg, settle, heads_flagged hr]
  · rw [exec_frameArrival h, receive_wrongKind hg (arrivalClass_wrongKind hk), settle, heads_flagged hr]
  · have hc : arrivalClass p f.header = .directive := by
      subst hp
      rw [arrivalClass_eq, if_neg (by omega), if_neg (by omega), if_neg (by simp; omega), if_pos ⟨rfl, hk⟩]
    rw [exec_frameArrival h, receive_directive hg hc]
    refine ⟨fun hroom => ?_, fun hfull => ?_⟩
    · rw [enterDirective, if_neg (show ¬ s.drq.length ≥ Config.drqCapacity from not_le.mpr hroom), settle]
      exact congrArg _ (congrArg _ (heads_rest hr.1 hr.media))
    · rw [enterDirective, if_pos (by exact hfull), settle, raise_eq, heads_flagged hr]

/-- Settles O32: with room, and at a full queue. -/
theorem intakeFramesQueueOrOverrun : Obligations.IntakeFramesQueueOrOverrun := by
  intro p f s h hr hg ht hk hne
  have hc : arrivalClass p f.header = .intake := arrivalClass_of_transfer (by cases p <;> exact hk) ht
  have hexec := exec_frameArrival (f := f) h
  rw [receive_intake hg hc] at hexec
  refine ⟨fun hroom => ?_, fun hfull hrun => ?_, fun hfull hrun => ⟨?_, fun hu => ?_⟩⟩
  · rw [hexec, enterIntake_room hroom, settle, heads_queued hr hne, putIntake_eq, List.length_append]
    rfl
  · rw [hexec, enterIntake_full hfull, endTransfer_elsewhere (by exact hrun), settle, heads_flagged hr]
  · rw [hexec, enterIntake_full hfull, endTransfer_cleared (by exact hrun)]
    rfl
  · rw [hexec, enterIntake_full hfull, endTransfer_unencumbered (by exact hrun) (by exact hu), settle]
    exact congrArg _ (congrArg _ (heads_ended (by exact hr) hu.2.2.1))

end Sys2Proof.Machine
end

section
/-! PROOFS. Frames at the two intake heads: OPENs, write sectors and read frames, at an empty queue and from behind another (R65 to R73). -/

namespace Sys2Proof.Machine

/-! ### The head's departure -/

/-- A state after the head of an intake queue has left: it came alone, or stood before others. -/
def Departed (p : PortId) (s x : State) : Prop := x = s.passed p ∨ x = s.beheaded p

section
variable {p : PortId} {s x : State}

theorem beheaded_core (p : PortId) (s : State) : SameCore s (s.beheaded p) := by
  rw [← popIntake_eq]
  exact popIntake_core p s

theorem Departed.core (h : Departed p s x) : SameCore s x := by
  rcases h with rfl | rfl
  · exact putPort_core ..
  · exact beheaded_core p s

theorem Departed.deadlineNow (h : Departed p s x) : x.deadlineNow = s.deadlineNow := by
  rcases h with rfl | rfl <;> cases p <;> rfl

theorem Departed.inNoDrain {t : Tag} (h : Departed p s x) (hn : InNoDrain t s) : InNoDrain t x := by
  rw [InNoDrain, h.core.slots]
  exact hn

theorem passed_atRest (p : PortId) (h : AtRest s) : AtRest (s.passed p) := by cases p <;> exact h

end

/-! ### What becomes of a frame at the front head -/

/-- `disposeFront` for a context's record, on the state that the head has left. -/
def disposedFront (q : Queued) (c : Context) (rest : State) : State :=
  if q.frame.header.kind = Kind.opening then
    if c.state = .free then takeOpen q rest else dropOpen (frameTag q.frame) rest
  else match c.state, c.direction with
    | .ending, _ | .reporting, _ => rest
    | .free, _ | .flushing, _ | .active, .read => raise Flag.orphanSector rest
    | .active, .write =>
      match writeSectorFault q c with
      | some e => endTransfer (frameTag q.frame) e (some c.taken) rest
      | none => rest

theorem disposeFront_eq (q : Queued) (s : State) :
    disposeFront q s = disposedFront q s.contexts[frameTag q.frame] (popIntake .front s) := rfl

section
variable {f : Frame} {damaged : Bool} {s : State}

theorem front_arrives (h : ArrivesAlone .front f s) (hk : f.header.kind.toNat ∈ [1, 2])
    (hc : frontCandidate ⟨f, payloadDamaged f⟩ s = false) :
    exec (.frameArrival .front f) s = .next (transmit (heads
      (disposedFront ⟨f, payloadDamaged f⟩ s.contexts[frameTag f] (s.passed .front)))) := by
  obtain ⟨hl, hr, hg, ht, hq⟩ := h
  have hqueue : s.intake .front ++ [⟨f, payloadDamaged f⟩] = [⟨f, payloadDamaged f⟩] := by rw [hq]; rfl
  rw [exec_frameArrival hl, receive_intake hg (arrivalClass_of_transfer (p := .front) hk ht),
    enterIntake_room (by rw [hq]; decide), hqueue, settle, heads_turn_front (by rfl) (by exact hc), disposeFront_eq,
    popIntake_putIntake hq nofun]
  rfl

theorem front_comes (h : AtFrontHead f damaged s) (hc : frontCandidate ⟨f, damaged⟩ s = false) :
    heads s = heads (disposedFront ⟨f, damaged⟩ s.contexts[frameTag f] (s.beheaded .front)) := by
  rw [heads_turn_front h hc, disposeFront_eq, popIntake_eq]

/-- What one turn of the front head does, it does to a frame that arrives alone and to one that comes from behind. -/
theorem front_turn {g : State → State} (hk : f.header.kind.toNat ∈ [1, 2])
    (hc : frontCandidate ⟨f, damaged⟩ s = false)
    (hg : ∀ x, Departed .front s x → disposedFront ⟨f, damaged⟩ s.contexts[frameTag f] x = g x) :
    (ArrivesAlone .front f s ∧ damaged = payloadDamaged f →
      exec (.frameArrival .front f) s = .next (transmit (heads (g (s.passed .front))))) ∧
    (AtFrontHead f damaged s → heads s = heads (g (s.beheaded .front))) := by
  refine ⟨fun ⟨h, hd⟩ => ?_, fun h => ?_⟩
  · subst hd
    rw [front_arrives h hk hc, hg _ (.inl rfl)]
  · rw [front_comes h hc, hg _ (.inr rfl)]

theorem candidate_kind (hk : f.header.kind.toNat = 1) : frontCandidate ⟨f, damaged⟩ s = false := by
  rw [Bool.eq_false_iff, ne_eq, candidate_iff]
  intro h
  have : f.header.kind.toNat = 2 := (byte_eq_iff _ 2 (by decide)).mp h.1
  omega

end

/-! ### OPENs -/

section
variable {f : Frame} {damaged : Bool} {s x : State}

theorem rangeCheck_allows {d : Direction} {k : RangeIx} (h : RangeAllows d k s) :
    rangeCheck s.slots d s.ranges[k] = none := by
  obtain ⟨hw, hr, n, hn, hs⟩ := h
  unfold rangeCheck
  rw [if_neg (by cases d <;> simp_all), hn]
  simp only [hs]

theorem rangeCheck_refuses {d : Direction} {k : RangeIx} {e : Ending} (h : RangeRefuses d k e s) :
    rangeCheck s.slots d s.ranges[k] = some e := by
  unfold rangeCheck
  rcases h with ⟨rfl, hl⟩ | ⟨rfl, hl, hn | ⟨n, hn, hs⟩⟩ | ⟨rfl, hl, n, hn, hs⟩
  · rw [if_pos hl]
  · rw [if_neg hl, hn]
  · rw [if_neg hl, hn]
    rcases hs with hs | hs <;> simp only [hs]
  · rw [if_neg hl, hn]
    simp only [hs]

theorem openRefusal_passes (hform : frameFormat f ≤ 3) (hend : frameLba f + frameCount f ≤ s.limits.ceiling) :
    openRefusal ⟨f, false⟩ s = (touched s.ranges (frameLba f) (frameCount f)).findSome?
      (fun k => rangeCheck s.slots (frameDirection f) s.ranges[k]) := by
  unfold openRefusal
  rw [if_neg Bool.false_ne_true, if_neg (not_lt.mpr hform), if_neg (not_lt.mpr hend)]

theorem openRefusal_allowed (hform : frameFormat f ≤ 3) (hend : frameLba f + frameCount f ≤ s.limits.ceiling)
    (hall : ∀ k ∈ touched s.ranges (frameLba f) (frameCount f), RangeAllows (frameDirection f) k s) :
    openRefusal ⟨f, false⟩ s = none := by
  rw [openRefusal_passes hform hend, List.findSome?_eq_none_iff]
  exact fun k hk => rangeCheck_allows (hall k hk)

theorem openRefusal_fails {e : Ending} {k : RangeIx} {before after : List RangeIx}
    (h : OpenFails damaged f e before k after s) : openRefusal ⟨f, damaged⟩ s = some e := by
  rcases h with ⟨rfl, rfl⟩ | ⟨rfl, rfl, hform⟩ | ⟨rfl, rfl, hform, hend⟩ | ⟨rfl, hform, hend, ht, hbefore, hk⟩
  · rfl
  · unfold openRefusal
    rw [if_neg Bool.false_ne_true, if_pos hform]
  · unfold openRefusal
    rw [if_neg Bool.false_ne_true, if_neg (not_lt.mpr hform), if_pos hend]
  · have hpass : before.findSome? (fun k => rangeCheck s.slots (frameDirection f) s.ranges[k]) = none :=
      List.findSome?_eq_none_iff.mpr fun j hj => rangeCheck_allows (hbefore j hj)
    rw [openRefusal_passes hform hend, ht, List.findSome?_append, hpass, List.findSome?_cons,
      rangeCheck_refuses hk]
    rfl

theorem openRefusal_congr {q : Queued} (h : SameCore s x) : openRefusal q x = openRefusal q s := by
  unfold openRefusal
  rw [h.ranges, h.slots, h.limits]

theorem takeOpen_taken {q : Queued} (h : openRefusal q s = none) :
    takeOpen q s =
      putContext (frameTag q.frame) { openedContext q.frame with state := .active, deadline := idleDeadline s } s := by
  unfold takeOpen
  rw [h]

theorem takeOpen_refused {q : Queued} {e : Ending} (h : openRefusal q s = some e) (hn : InNoDrain (frameTag q.frame) s) :
    takeOpen q s = 
      { s with
        contexts := s.contexts.set (frameTag q.frame) { openedContext q.frame with state := .reporting, ending := some e }
        rpq := s.rpq ++ [completionFrame (frameTag q.frame)
          { openedContext q.frame with state := .reporting, ending := some e }] } := by
  unfold takeOpen
  rw [h]
  exact (enterReporting_putContext ..).trans (leaveDrain_none hn)

theorem disposedFront_open {c : Context} (hk : f.header.kind.toNat = 1) (hf : c.state = .free) :
    disposedFront ⟨f, damaged⟩ c x = takeOpen ⟨f, damaged⟩ x :=
  (if_pos ((byte_eq_iff _ 1 (by decide)).mpr hk)).trans (if_pos hf)

theorem disposedFront_busy {c : Context} (hk : f.header.kind.toNat = 1) (hf : c.state ≠ .free) :
    disposedFront ⟨f, damaged⟩ c x = endTransfer (frameTag f) .tagReuse none (x.flagged Flag.tagBusy) :=
  (if_pos ((byte_eq_iff _ 1 (by decide)).mpr hk)).trans (if_neg hf)

end

/-! ### Write sectors -/

section
variable {f : Frame} {damaged : Bool} {c : Context} {x : State}

theorem disposedFront_sector (hk : f.header.kind.toNat = 2) :
    disposedFront ⟨f, damaged⟩ c x =
      match c.state, c.direction with
      | .ending, _ | .reporting, _ => x
      | .free, _ | .flushing, _ | .active, .read => x.flagged Flag.orphanSector
      | .active, .write =>
        match writeSectorFault ⟨f, damaged⟩ c with
        | some e => endTransfer (frameTag f) e (some c.taken) x
        | none => x := by
  have h : ¬ f.header.kind = Kind.opening := fun h => by
    have := (byte_eq_iff _ 1 (by decide)).mp h
    omega
  exact if_neg h

theorem writeSectorFault_some {e : Ending}
    (h : ((f.header.index.toNat ≠ c.taken ∨ frameLba f ≠ c.start + f.header.index.toNat) ∧ e = .sequence) ∨
      (¬ (f.header.index.toNat ≠ c.taken ∨ frameLba f ≠ c.start + f.header.index.toNat) ∧
        (f.header.length.toNat ≠ sectorLength c.format ∨ frameFormat f ≠ c.format.val) ∧ e = .badLength) ∨
      (¬ (f.header.index.toNat ≠ c.taken ∨ frameLba f ≠ c.start + f.header.index.toNat) ∧
        ¬ (f.header.length.toNat ≠ sectorLength c.format ∨ frameFormat f ≠ c.format.val) ∧ damaged = true ∧
        e = .damaged)) : writeSectorFault ⟨f, damaged⟩ c = some e := by
  unfold writeSectorFault
  rcases h with ⟨hs, rfl⟩ | ⟨hs, hl, rfl⟩ | ⟨hs, hl, rfl, rfl⟩
  · exact if_pos hs
  · exact (if_neg hs).trans (if_pos hl)
  · exact (if_neg hs).trans ((if_neg hl).trans (if_pos rfl))

theorem writeSectorFault_none (hs : ¬ (f.header.index.toNat ≠ c.taken ∨ frameLba f ≠ c.start + f.header.index.toNat))
    (hl : ¬ (f.header.length.toNat ≠ sectorLength c.format ∨ frameFormat f ≠ c.format.val)) :
    writeSectorFault ⟨f, false⟩ c = none :=
  (if_neg hs).trans ((if_neg hl).trans (if_neg Bool.false_ne_true))

end

/-! ### Read frames -/

/-- `disposeMedia` for a frame that is not judged, on the state that the head has left. -/
def disposedMedia (q : Queued) (c : Context) (rest : State) : State :=
  match c.state, c.direction with
  | .ending, _ | .reporting, _ => rest
  | .free, _ | .flushing, _ | .active, .write => raise Flag.orphanSector rest
  | .active, .read =>
    if frameIndex q.frame ≥ c.count then raise Flag.orphanSector rest
    else if c.marks.getLsbD (frameIndex q.frame) then raise Flag.duplicateSector rest
    else endTransfer (frameTag q.frame) .damaged (some (frameIndex q.frame)) rest

section
variable {f : Frame} {damaged : Bool} {s : State}

theorem disposeMedia_eq {q : Queued} (h : belongsToRead q s = true → q.damaged = true) :
    disposeMedia q s = disposedMedia q s.contexts[frameTag q.frame] (popIntake .media s) := by
  rw [belongs_iff] at h
  unfold disposeMedia disposedMedia
  dsimp only
  generalize s.contexts[frameTag q.frame] = c at h ⊢
  cases hs : c.state with
  | active =>
    cases hd : c.direction with
    | read =>
      dsimp only
      by_cases hi : frameIndex q.frame ≥ c.count
      · rw [if_pos hi, if_pos hi]
      · by_cases hm : c.marks.getLsbD (frameIndex q.frame) = true
        · rw [if_neg hi, if_neg hi, if_pos hm, if_pos hm]
        · rw [if_neg hi, if_neg hi, if_neg hm, if_neg hm, if_pos (h ⟨hs, hd, not_le.mp hi, by simpa using hm⟩)]
    | write => rfl
  | _ => rfl

/-- A frame that arrives alone at the media head. -/
theorem media_arrives (h : ArrivesAlone .media f s) (hk : f.header.kind.toNat ∈ [2, 6, 7]) :
    exec (.frameArrival .media f) s =
      .next (transmit (heads (putIntake .media [⟨f, payloadDamaged f⟩] s))) := by
  obtain ⟨hl, hr, hg, ht, hq⟩ := h
  have hqueue : s.intake .media ++ [⟨f, payloadDamaged f⟩] = [⟨f, payloadDamaged f⟩] := by rw [hq]; rfl
  rw [exec_frameArrival hl, receive_intake hg (arrivalClass_of_transfer (p := .media) hk ht),
    enterIntake_room (by rw [hq]; decide), hqueue]
  rfl

theorem ArrivesAlone.unjudged (h : ArrivesAlone .media f s) : s.verdict = none := by
  obtain ⟨hl, hr, hg, ht, hq⟩ := h
  have := hr.2
  cases hv : s.verdict <;> simp_all [State.intake]

/-- What one turn of the media head does to a frame that does not belong to a transfer, or is damaged. -/
theorem media_turn {g : State → State} (hk : f.header.kind.toNat ∈ [2, 6, 7])
    (hb : belongsToRead ⟨f, damaged⟩ s = true → damaged = true)
    (hg : ∀ x, Departed .media s x → disposedMedia ⟨f, damaged⟩ s.contexts[frameTag f] x = g x) :
    (ArrivesAlone .media f s ∧ damaged = payloadDamaged f →
      exec (.frameArrival .media f) s = .next (transmit (heads (g (s.passed .media))))) ∧
    (AtMediaHead f damaged s → heads s = heads (g (s.beheaded .media))) := by
  refine ⟨fun ⟨h, hd⟩ => ?_, fun ⟨hf, hv, hq⟩ => ?_⟩
  · subst hd
    have hturn : heads (putIntake .media [⟨f, payloadDamaged f⟩] s) =
        heads (disposeMedia ⟨f, payloadDamaged f⟩ (putIntake .media [⟨f, payloadDamaged f⟩] s)) :=
      heads_turn_media rfl h.unjudged h.2.1.1
    rw [media_arrives h hk, hturn, disposeMedia_eq (by exact hb), popIntake_putIntake h.2.2.2.2 fun _ => h.unjudged]
    exact congrArg _ (congrArg _ (congrArg _ (hg _ (.inl rfl))))
  · rw [heads_turn_media hq hv hf, disposeMedia_eq hb, popIntake_eq, hg _ (.inr rfl)]

end

/-! ### What the endings leave -/

section
variable {f : Frame} {p : PortId} {t : Tag} {e : Ending} {fail : Option Nat} {s x : State}

/-- With both queues as an arrival alone found them, nothing waits at a head. -/
theorem ArrivesAlone.heads_front (h : ArrivesAlone .front f s) (hf : x.fiq = s.fiq) (hm : x.miq = s.miq)
    (hv : x.verdict = s.verdict) : heads x = x := by
  refine heads_rest ?_ ?_
  · rw [hf, show s.fiq = [] from h.2.2.2.2]
    exact nofun
  · rw [hm, hv]
    exact h.2.1.media

theorem cleared_unencumbered (hrun : s.contexts[t].state.running = true) (hu : Unencumbered t s) :
    s.cleared t e fail = s.ended t e fail :=
  (endTransfer_cleared hrun).symm.trans (endTransfer_unencumbered hrun hu)

/-- An unencumbered transfer that ends leaves heads at rest. -/
theorem heads_cleared_unencumbered (hr : AtRest s) (hrun : s.contexts[t].state.running = true) (hu : Unencumbered t s) :
    heads (s.cleared t e fail) = s.ended t e fail := by
  rw [cleared_unencumbered hrun hu, heads_ended hr hu.2.2.1]

end

end Sys2Proof.Machine

namespace Sys2Proof.Machine

/-- Settles O33: the OPEN passes every check. -/
theorem openIsTaken : Obligations.OpenIsTaken := by
  intro f s hk hf hform hend hall
  have hg (x : State) (hx : Departed .front s x) : disposedFront ⟨f, false⟩ s.contexts[frameTag f] x =
      { x with contexts := s.contexts.set (frameTag f) { openedContext f with state := .active, deadline := s.deadlineNow } } := by
    rw [disposedFront_open hk hf, takeOpen_taken ((openRefusal_congr hx.core).trans (openRefusal_allowed hform hend hall)),
      ← hx.deadlineNow, ← hx.core.contexts]
    rfl
  have hc : openedContext f = { Context.free with
      direction := frameDirection f, start := frameLba f, count := frameCount f, format := Fin.ofNat 4 (frameFormat f) } := by
    rw [openedContext, if_neg (not_lt.mpr hform)]
  rw [hc] at hg
  have ⟨harrives, hcomes⟩ := front_turn (by simp [hk]) (candidate_kind hk) hg
  refine ⟨fun h hd => (harrives ⟨h, hd.symm⟩).trans (congrArg _ (congrArg _ ?_)), hcomes⟩
  exact h.heads_front rfl rfl rfl

/-- Settles O34, by the state of the context. -/
theorem openIsRefusedOrDropped : Obligations.OpenIsRefusedOrDropped := by
  intro f damaged s hk
  have hin : f.header.kind.toNat ∈ [1, 2] := by simp [hk]
  have hc : frontCandidate ⟨f, damaged⟩ s = false := candidate_kind hk
  refine ⟨fun e before k after hf hn hfails => ?_, fun hs => ?_, fun hrun => ?_⟩
  · have hg (x : State) (hx : Departed .front s x) := by
      have h := disposedFront_open (damaged := damaged) (x := x) hk hf
      rwa [takeOpen_refused ((openRefusal_congr hx.core).trans (openRefusal_fails hfails)) (hx.inNoDrain hn),
        hx.core.contexts, hx.core.rpq] at h
    have ⟨harrives, hcomes⟩ := front_turn hin hc hg
    exact ⟨fun h => (harrives h).trans (congrArg _ (congrArg _ (h.1.heads_front rfl rfl rfl))), hcomes⟩
  · have hg (x : State) (hx : Departed .front s x) :
        disposedFront ⟨f, damaged⟩ s.contexts[frameTag f] x = x.flagged Flag.tagBusy := by
      rw [disposedFront_busy hk (by rcases hs with hs | hs <;> rw [hs] <;> exact nofun)]
      refine endTransfer_elsewhere ?_
      change x.contexts[frameTag f].state.running = false
      rw [hx.core.contexts]
      rcases hs with hs | hs <;> rw [hs] <;> rfl
    have ⟨harrives, hcomes⟩ := front_turn hin hc hg
    exact ⟨fun h => (harrives h).trans (congrArg _ (congrArg _ (h.1.heads_front rfl rfl rfl))), hcomes⟩
  · have hg (x : State) (hx : Departed .front s x) : disposedFront ⟨f, damaged⟩ s.contexts[frameTag f] x =
        (x.flagged Flag.tagBusy).cleared (frameTag f) .tagReuse none := by
      rw [disposedFront_busy hk (by intro h; rw [h] at hrun; exact Bool.noConfusion hrun)]
      refine endTransfer_cleared ?_
      change x.contexts[frameTag f].state.running = true
      rw [hx.core.contexts, hrun]
    have ⟨harrives, hcomes⟩ := front_turn hin hc hg
    refine ⟨fun h => ⟨harrives h, fun hu => (harrives h).trans (congrArg _ (congrArg _ ?_))⟩, hcomes⟩
    exact heads_cleared_unencumbered (by exact h.1.2.1) (by exact hrun) (by exact hu)

/-- Settles O35, by the state and direction of the context and the checks of R70. -/
theorem writeSectorAtTheHead : Obligations.WriteSectorAtTheHead := by
  intro f damaged s hk
  have hin : f.header.kind.toNat ∈ [1, 2] := by simp [hk]
  have hkind : f.header.kind = Kind.sector := (byte_eq_iff _ 2 (by decide)).mpr hk
  have other (h : ¬ (s.contexts[frameTag f].state = .active ∧ s.contexts[frameTag f].direction = .write)) :
      frontCandidate ⟨f, damaged⟩ s = false := by
    rw [Bool.eq_false_iff, ne_eq, candidate_iff]
    exact fun hc => h ⟨hc.2.1, hc.2.2.1⟩
  refine ⟨fun hs => ?_, fun hs => ?_, fun hs hd => ⟨fun e he => ?_, fun hseq hlen hdam => ?_⟩⟩
  · have hg (x : State) (hx : Departed .front s x) :
        disposedFront ⟨f, damaged⟩ s.contexts[frameTag f] x = x.flagged Flag.orphanSector := by
      rw [disposedFront_sector hk]
      rcases hs with hs | hs | ⟨hs, hd⟩
      · simp only [hs]
      · simp only [hs]
      · simp only [hs, hd]
    have ⟨harrives, hcomes⟩ := front_turn hin (other (by
      rcases hs with hs | hs | ⟨-, hd⟩
      · simp only [hs, reduceCtorEq, false_and, not_false_eq_true]
      · simp only [hs, reduceCtorEq, false_and, not_false_eq_true]
      · simp only [hd, reduceCtorEq, and_false, not_false_eq_true])) hg
    exact ⟨fun h => (harrives h).trans (congrArg _ (congrArg _ (h.1.heads_front rfl rfl rfl))), hcomes⟩
  · have hg (x : State) (hx : Departed .front s x) : disposedFront ⟨f, damaged⟩ s.contexts[frameTag f] x = x := by
      rw [disposedFront_sector hk]
      rcases hs with hs | hs <;> simp only [hs]
    have ⟨harrives, hcomes⟩ := front_turn hin (other (by
      rcases hs with hs | hs <;> simp only [hs, reduceCtorEq, false_and, not_false_eq_true])) hg
    exact ⟨fun h => (harrives h).trans (congrArg _ (congrArg _ (h.1.heads_front rfl rfl rfl))), hcomes⟩
  · have hfault := writeSectorFault_some he
    have hrun : s.contexts[frameTag f].state.running = true := by rw [hs]; rfl
    have hc : frontCandidate ⟨f, damaged⟩ s = false := by
      rw [Bool.eq_false_iff, ne_eq, candidate_iff]
      rintro ⟨-, -, -, hnone⟩
      exact Option.some_ne_none e (hfault.symm.trans hnone)
    have hg (x : State) (hx : Departed .front s x) : disposedFront ⟨f, damaged⟩ s.contexts[frameTag f] x =
        x.cleared (frameTag f) e (some s.contexts[frameTag f].taken) := by
      rw [disposedFront_sector hk]
      simp only [hs, hd, hfault]
      exact endTransfer_cleared (by rw [hx.core.contexts, hrun])
    have ⟨harrives, hcomes⟩ := front_turn hin hc hg
    refine ⟨fun h => ⟨harrives h, fun hu => (harrives h).trans (congrArg _ (congrArg _ ?_))⟩, hcomes⟩
    exact heads_cleared_unencumbered (by exact h.1.2.1) (by exact hrun) (by exact hu)
  · subst hdam
    have hc : frontCandidate ⟨f, false⟩ s = true :=
      (candidate_iff _ _).mpr ⟨hkind, hs, hd, writeSectorFault_none hseq hlen⟩
    refine ⟨fun ⟨⟨hl, hr, hg, ht, hq⟩, hdam⟩ => ?_, hc⟩
    have hqueue : s.intake .front ++ [⟨f, payloadDamaged f⟩] = [⟨f, false⟩] := by rw [hq, ← hdam]; rfl
    rw [exec_frameArrival hl, receive_intake hg (arrivalClass_of_transfer (p := .front) hin ht),
      enterIntake_room (by rw [hq]; decide), hqueue]
    exact congrArg _ (congrArg _ (heads_rest (s := putIntake .front [⟨f, false⟩] s) (fun q hq => by cases hq; exact hc) hr.media))

/-- Settles O36, by the state and direction of the context. -/
theorem readFrameDisposedOf : Obligations.ReadFrameDisposedOf := by
  intro f damaged s hk
  have hb (h : ¬ (s.contexts[frameTag f].state = .active ∧ s.contexts[frameTag f].direction = .read ∧
      f.header.index.toNat < s.contexts[frameTag f].count ∧
      s.contexts[frameTag f].marks.getLsbD f.header.index.toNat = false)) :
      belongsToRead ⟨f, damaged⟩ s = true → damaged = true := fun hb => absurd ((belongs_iff _ _).mp hb) h
  have rest {x : State} (h : ArrivesAlone .media f s) (hf : x.fiq = s.fiq) (hx : x.contexts = s.contexts)
      (hm : x.miq = s.miq) : heads x = x := by
    refine heads_rest ?_ (.inl (hm.trans h.2.2.2.2))
    rw [hf]
    exact fun q hq => (frontCandidate_congr (by rw [hx])).trans (h.2.1.1 q hq)
  refine ⟨fun hs => ?_, fun hs => ?_, fun hs hd hi hm => ?_, fun hs hd hi hm hdam => ?_⟩
  · have hg (x : State) (hx : Departed .media s x) : disposedMedia ⟨f, damaged⟩ s.contexts[frameTag f] x = x := by
      unfold disposedMedia
      rcases hs with hs | hs <;> simp only [hs]
    have ⟨harrives, hcomes⟩ := media_turn hk (hb (by
      rcases hs with hs | hs <;> simp only [hs, reduceCtorEq, false_and, not_false_eq_true])) hg
    exact ⟨fun h => (harrives h).trans (congrArg _ (congrArg _ (rest h.1 rfl rfl rfl))), hcomes⟩
  · have hg (x : State) (hx : Departed .media s x) :
        disposedMedia ⟨f, damaged⟩ s.contexts[frameTag f] x = x.flagged Flag.orphanSector := by
      unfold disposedMedia
      rcases hs with hs | hs | ⟨hs, hd⟩ | ⟨hs, hi⟩
      · simp only [hs]
        rfl
      · simp only [hs]
        rfl
      · simp only [hs, hd]
        rfl
      · cases hd : s.contexts[frameTag f].direction with
        | write =>
          simp only [hs]
          rfl
        | read =>
          simp only [hs]
          exact if_pos hi
    have ⟨harrives, hcomes⟩ := media_turn hk (hb (by
      rcases hs with hs | hs | ⟨hs, hd⟩ | ⟨hs, hi⟩
      · simp only [hs, reduceCtorEq, false_and, not_false_eq_true]
      · simp only [hs, reduceCtorEq, false_and, not_false_eq_true]
      · simp only [hd, reduceCtorEq, false_and, and_false, not_false_eq_true]
      · exact fun h => absurd h.2.2.1 (not_lt.mpr hi))) hg
    exact ⟨fun h => (harrives h).trans (congrArg _ (congrArg _ (rest h.1 rfl rfl rfl))), hcomes⟩
  · have hg (x : State) (hx : Departed .media s x) :
        disposedMedia ⟨f, damaged⟩ s.contexts[frameTag f] x = x.flagged Flag.duplicateSector := by
      unfold disposedMedia
      simp only [hs, hd]
      exact (if_neg (not_le.mpr hi)).trans (if_pos hm)
    have ⟨harrives, hcomes⟩ := media_turn hk (hb fun h => absurd (hm.symm.trans h.2.2.2) nofun) hg
    exact ⟨fun h => (harrives h).trans (congrArg _ (congrArg _ (rest h.1 rfl rfl rfl))), hcomes⟩
  · have hrun : s.contexts[frameTag f].state.running = true := by rw [hs]; rfl
    have hg (x : State) (hx : Departed .media s x) : disposedMedia ⟨f, damaged⟩ s.contexts[frameTag f] x =
        x.cleared (frameTag f) .damaged (some f.header.index.toNat) := by
      unfold disposedMedia
      simp only [hs, hd]
      refine (if_neg (not_le.mpr hi)).trans ((if_neg (by exact Bool.eq_false_iff.mp hm)).trans ?_)
      exact endTransfer_cleared (by rw [hx.core.contexts, hrun])
    have ⟨harrives, hcomes⟩ := media_turn hk (fun _ => hdam) hg
    refine ⟨fun h => ⟨harrives h, fun hu => (harrives h).trans (congrArg _ (congrArg _ ?_))⟩, hcomes⟩
    exact heads_cleared_unencumbered (by exact h.1.2.1) (by exact hrun) (by exact hu)

end Sys2Proof.Machine
end

section
/-! PROOFS. The judging of read frames and the bypass at the media head (R73, R127 to R133). -/

namespace Sys2Proof.Machine

/-! ### The verdict -/

/-- The tests of R128 on the frame, by its numbers. -/
def Mismatches (f : Frame) (s : State) : Prop :=
  let c := s.contexts[frameTag f]
  let expected := c.start + f.header.index.toNat
  let n := sectorLength c.format
  let t := trailerOfBytes (f.payload.drop (if f.header.kind.toNat = 6 then 0 else n))
  frameLba f ≠ expected ∨ (f.header.kind.toNat = 2 ∧ f.header.length.toNat ≠ n + 8) ∨
    (f.header.kind.toNat = 6 ∧ f.header.length.toNat ≠ 8) ∨
    (f.header.kind.toNat ≠ 7 ∧ t.form ≠ formatByte s.ranges[lookup s.ranges expected].metaCipher c.format)

/-- The tests of R130 on the trailer, by its numbers. -/
def CurrentStamp (f : Frame) (s : State) : Prop :=
  let c := s.contexts[frameTag f]
  let r := lookup s.ranges (c.start + f.header.index.toNat)
  let t := trailerOfBytes (f.payload.drop (if f.header.kind.toNat = 6 then 0 else sectorLength c.format))
  t.range.toNat = r.val ∧ ∃ k : SlotIx, s.ranges[r].slot = some k ∧ s.slots[k].generation = t.stamp

theorem kind_eq_iff (f : Frame) {n : Nat} (hn : n < 256) :
    f.header.kind = BitVec.ofNat 8 n ↔ f.header.kind.toNat = n := byte_eq_iff _ n hn

theorem currentStamp_iff (f : Frame) (s : State) :
    let r := lookup s.ranges (s.contexts[frameTag f].start + frameIndex f)
    let t := trailerOfBytes (f.payload.drop (if f.header.kind = Kind.zero then 0 else sectorLength s.contexts[frameTag f].format))
    (t.range ≠ BitVec.ofNat 8 r.val ∨ s.ranges[r].slot.map (fun k => s.slots[k].generation) ≠ some t.stamp) ↔
      ¬ CurrentStamp f s := by
  have hz : f.header.kind = Kind.zero ↔ f.header.kind.toNat = 6 := kind_eq_iff f (by decide)
  intro r t
  have hr : t.range = BitVec.ofNat 8 r.val ↔ t.range.toNat = r.val := byte_eq_iff _ _ (by omega)
  have ht : t = trailerOfBytes
      (f.payload.drop (if f.header.kind.toNat = 6 then 0 else sectorLength s.contexts[frameTag f].format)) :=
    congrArg trailerOfBytes (congrArg (List.drop · f.payload) (if_congr hz rfl rfl))
  rw [← not_and_or, hr, Option.map_eq_some_iff, ht]
  rfl

open Classical in
/-- The verdict, by the first test that the frame fails. -/
theorem judge_eq (f : Frame) (s : State) :
    judge f s =
      if Mismatches f s then .mismatch
      else if f.header.kind.toNat = 7 then .void
      else if ¬ CurrentStamp f s then .stale
      else if f.header.kind.toNat = 6 then .zero
      else .decipher := by
  have hz : f.header.kind = Kind.zero ↔ f.header.kind.toNat = 6 := kind_eq_iff f (by decide)
  have hv : f.header.kind = Kind.void ↔ f.header.kind.toNat = 7 := kind_eq_iff f (by decide)
  have hs : f.header.kind = Kind.sector ↔ f.header.kind.toNat = 2 := kind_eq_iff f (by decide)
  have hmism : (frameLba f ≠ s.contexts[frameTag f].start + frameIndex f ∨
      (f.header.kind = Kind.sector ∧ payloadLength f ≠ sectorLength s.contexts[frameTag f].format + 8) ∨
      (f.header.kind = Kind.zero ∧ payloadLength f ≠ 8) ∨
      (f.header.kind ≠ Kind.void ∧ (trailerOfBytes (f.payload.drop
        (if f.header.kind = Kind.zero then 0 else sectorLength s.contexts[frameTag f].format))).form ≠
        formatByte s.ranges[lookup s.ranges (s.contexts[frameTag f].start + frameIndex f)].metaCipher
          s.contexts[frameTag f].format)) ↔ Mismatches f s := by
    simp only [ne_eq, hz, hv, hs]
    rfl
  unfold judge
  exact if_congr hmism rfl (if_congr hv rfl (if_congr (currentStamp_iff f s) rfl (if_congr hz rfl rfl)))

/-! ### What is done with the verdict -/

section
variable {f : Frame} {q : Queued} {s : State}

theorem disposeMedia_judges (hb : belongsToRead q s = true) (hq : q.damaged = false) : disposeMedia q s = judgeHead q s := by
  obtain ⟨hs, hd, hi, hm⟩ := (belongs_iff q s).mp hb
  unfold disposeMedia
  simp only [hs, hd]
  rw [if_neg (not_le.mpr hi), if_neg (Bool.eq_false_iff.mp hm), if_neg (Bool.eq_false_iff.mp hq)]

/-- A frame to be deciphered, and one without room for its bypass sector, waits with its verdict (R127, R133). -/
theorem judgeHead_waits (h : judge q.frame s = .decipher ∨ 16 ≤ s.fsq.length ∨ s.fsqHold ≠ []) :
    judgeHead q s = { s with verdict := some (judge q.frame s) } := by
  unfold judgeHead
  dsimp only
  split
  · rfl
  · next r hr =>
    refine if_neg fun hroom => ?_
    obtain ⟨hlen, hhold⟩ := hasRoom_fsq.mp hroom
    rcases h with h | h | h
    · rw [h] at hr
      cases hr
    · omega
    · exact h hhold

theorem judgeHead_bypasses {r : ReadStatus} (hr : Bypasses (judge q.frame s) r) (hl : s.fsq.length < 16)
    (hh : s.fsqHold = []) : judgeHead q s = takeBypass q r s := by
  unfold judgeHead
  simp only [bypassStatus_iff.mpr hr, hasRoom_fsq.mpr ⟨hl, hh⟩, if_true]

theorem media_judged (h : ArrivesAlone .media f s ∧ payloadDamaged f = false) (hk : f.header.kind.toNat ∈ [2, 6, 7])
    (hb : belongsToRead ⟨f, false⟩ s = true) :
    exec (.frameArrival .media f) s = .next (transmit (judgeHead ⟨f, false⟩ (putIntake .media [⟨f, false⟩] s))) := by
  obtain ⟨h, hd⟩ := h
  rw [media_arrives h hk, hd, heads_media_alone h.unjudged h.2.1.1, disposeMedia_judges (by exact hb) rfl]

end

end Sys2Proof.Machine

namespace Sys2Proof.Machine

/-- Settles O37, by the five outcomes of the judging. -/
theorem judgingTests : Obligations.JudgingTests := by
  intro f s
  have hvoid (h : f.header.kind.toNat = 7) : f.header.kind.toNat ≠ 6 := by omega
  refine ⟨?_, ?_, ?_, ?_, ?_, fun hk rt st => ?_⟩
  · rw [judge_eq]
    change _ ↔ Mismatches f s
    split_ifs <;> simp_all
  · rw [judge_eq]
    change _ ↔ ¬ Mismatches f s ∧ _
    split_ifs <;> simp_all
  · rw [judge_eq]
    change _ ↔ ¬ Mismatches f s ∧ _ ∧ ¬ CurrentStamp f s
    split_ifs <;> simp_all
  · rw [judge_eq]
    change _ ↔ ¬ Mismatches f s ∧ _ ∧ CurrentStamp f s
    split_ifs <;> simp_all
  · rw [judge_eq]
    change _ ↔ ¬ Mismatches f s ∧ _ ∧ _ ∧ CurrentStamp f s
    split_ifs <;> simp_all
  · have hm : Mismatches f { s with ranges := rt, slots := st } ↔ Mismatches f s := by
      simp only [Mismatches, hk, ne_eq, not_true_eq_false, false_and, or_false]
    rw [judge_eq, judge_eq, if_pos hk, if_pos hk]
    by_cases h : Mismatches f s
    · rw [if_pos h, if_pos (hm.mpr h)]
    · rw [if_neg h, if_neg (mt hm.mp h)]

/-- Settles O38: the judged frame waits, or takes the bypass. -/
theorem readFrameJudged : Obligations.ReadFrameJudged := by
  refine ⟨fun q s => belongs_iff q s, fun f s hk hb => ⟨fun hw => ⟨fun h => ?_, fun ⟨hf, hv, hq⟩ => ?_⟩,
    fun r hr hl hh => ⟨fun h => ?_, fun ⟨hf, hv, hq⟩ => ?_⟩⟩⟩
  · rw [media_judged h hk hb, judgeHead_waits (by exact hw), putIntake_eq]
    rfl
  · rw [heads_turn_media hq hv hf, disposeMedia_judges hb rfl, judgeHead_waits hw]
    exact heads_rest hf (.inr rfl)
  · rw [media_judged h hk hb, judgeHead_bypasses (by exact hr) (by exact hl) (by exact hh), takeBypass_eq (by exact hb),
      ← popIntake_eq, popIntake_putIntake h.1.2.2.2.2 fun _ => h.1.unjudged]
    rfl
  · rw [heads_turn_media hq hv hf, disposeMedia_judges hb rfl, judgeHead_bypasses hr hl hh, takeBypass_eq hb]
    rfl

end Sys2Proof.Machine
end

section
/-! PROOFS. Byte layouts: headers, trailers and the two checks (R16, R88, R89, R159; Tables 11-1 and 11-4a). -/

namespace Sys2Proof.Machine

/-! ### Numbers and their bytes -/

/-- Byte `i` of a number's bytes is its digit to the base 256. -/
theorem toNat_byteAt_leBytes {n i : Nat} (v : Nat) (h : i < n) : (byteAt (leBytes n v) i).toNat = v / 256 ^ i % 256 := by
  induction n generalizing i v with
  | zero => omega
  | succ n ih =>
    cases i with
    | zero => simp [leBytes, byteAt]
    | succ i =>
      have hi := ih (v / 256) (Nat.lt_of_succ_lt_succ h)
      rw [Nat.div_div_eq_div_mul, ← pow_succ'] at hi
      exact hi

/-- A number that fits in its bytes is read from them. -/
theorem leNat_leBytes_of_lt {k n : Nat} (h : n < 256 ^ k) : leNat (leBytes k n) = n := by
  rw [leNat_leBytes, Nat.mod_eq_of_lt h]

/-- A word of `k` bytes is read from them. -/
theorem ofNat_leNat_leBytes {w k : Nat} (x : BitVec w) (h : 2 ^ w = 256 ^ k) :
    BitVec.ofNat w (leNat (leBytes k x.toNat)) = x := by
  rw [leNat_leBytes_of_lt (h ▸ x.isLt), BitVec.ofNat_toNat, BitVec.setWidth_eq]

/-- `k` bytes are those of the word they spell. -/
theorem leBytes_ofNat_leNat {w k : Nat} {bs : Bytes} (hk : bs.length = k) (h : 2 ^ w = 256 ^ k) :
    leBytes k (BitVec.ofNat w (leNat bs)).toNat = bs := by
  have hlt := leNat_lt bs
  rw [hk, ← h] at hlt
  rw [BitVec.toNat_ofNat, Nat.mod_eq_of_lt hlt, ← hk, leBytes_leNat]

theorem slice_length {bs : Bytes} {off len : Nat} (h : off + len ≤ bs.length) : (slice bs off len).length = len := by
  simp only [slice, List.length_take, List.length_drop]
  omega

/-! ### The two checks (R16, R159) -/

/-- One shift of the 32-bit remainder, by the number of its lowest bit. -/
theorem check32Shift_eq (r : BitVec 32) :
    check32Shift r = (r >>> 1) ^^^ (if r.toNat % 2 = 1 then 0x82F63B78#32 else 0#32) := by
  have hbit : r.getLsbD 0 = decide (r.toNat % 2 = 1) := by
    rw [← BitVec.testBit_toNat, Nat.testBit_zero]
  rw [check32Shift, hbit]
  by_cases h : r.toNat % 2 = 1
  · simp only [h, decide_true, if_true]
  · simp only [h, decide_false, Bool.false_eq_true, if_false]
    exact (BitVec.xor_zero).symm

/-- The check word takes one byte more (R16). -/
theorem check32_append (bs : Bytes) (b : Byte) :
    check32 (bs ++ [b]) = check32Byte (check32 bs ^^^ 0xFFFFFFFF#32) b ^^^ 0xFFFFFFFF#32 := by
  simp only [check32, List.foldl_append, List.foldl_cons, List.foldl_nil, BitVec.xor_assoc, BitVec.xor_self,
    BitVec.xor_zero]

/-- One shift of the 16-bit remainder, by the number of its highest bit. -/
theorem check16Shift_eq (r : BitVec 16) :
    check16Shift r = (r <<< 1) ^^^ (if 2 ^ 15 ≤ r.toNat then 0x1021#16 else 0#16) := by
  have hbit : r.getMsbD 0 = decide (2 ^ 15 ≤ r.toNat) := BitVec.msb_eq_decide r
  rw [check16Shift, hbit]
  by_cases h : 2 ^ 15 ≤ r.toNat
  · simp only [h, decide_true, if_true]
  · simp only [h, decide_false, Bool.false_eq_true, if_false]
    exact (BitVec.xor_zero).symm

/-! ### Headers and trailers -/

theorem headerOfBytes_headerBytes (h : Header) : headerOfBytes (headerBytes h) = h := by
  have hlba : field (headerBytes h) 4 5 = leNat (leBytes 5 h.lba.toNat) := rfl
  have hlen : field (headerBytes h) 10 2 = leNat (leBytes 2 h.length.toNat) := rfl
  have hunused : field (headerBytes h) 12 2 = leNat (leBytes 2 h.unused.toNat) := rfl
  have hcheck : field (headerBytes h) 14 2 = leNat (leBytes 2 h.check.toNat) := rfl
  rw [headerOfBytes, hlba, hlen, hunused, hcheck, ofNat_leNat_leBytes _ (by norm_num), ofNat_leNat_leBytes _ (by norm_num),
    ofNat_leNat_leBytes _ (by norm_num), ofNat_leNat_leBytes _ (by norm_num)]
  rfl

/-- Sixteen bytes are the four single bytes, the LBA, the count and the three words of two bytes. -/
theorem headerBytes_headerOfBytes {bs : Bytes} (h : bs.length = 16) : headerBytes (headerOfBytes bs) = bs := by
  have hslices : headerBytes (headerOfBytes bs) =
      [byteAt bs 0, byteAt bs 1, byteAt bs 2, byteAt bs 3] ++ slice bs 4 5 ++ [byteAt bs 9] ++ slice bs 10 2 ++
        slice bs 12 2 ++ slice bs 14 2 := by
    simp only [headerBytes, headerBody, headerOfBytes, field]
    rw [leBytes_ofNat_leNat (slice_length (by omega)) (by norm_num), leBytes_ofNat_leNat (slice_length (by omega)) (by norm_num),
      leBytes_ofNat_leNat (slice_length (by omega)) (by norm_num), leBytes_ofNat_leNat (slice_length (by omega)) (by norm_num)]
  rw [hslices]
  match bs, h with
  | [_, _, _, _, _, _, _, _, _, _, _, _, _, _, _, _], _ => rfl

theorem trailerOfBytes_trailerBytes (t : Trailer) : trailerOfBytes (trailerBytes t) = t := by
  have hcheck : field (trailerBytes t) 0 4 = leNat (leBytes 4 t.check.toNat) := rfl
  have hstamp : field (trailerBytes t) 4 2 = leNat (leBytes 2 t.stamp.toNat) := rfl
  rw [trailerOfBytes, hcheck, hstamp, ofNat_leNat_leBytes _ (by norm_num), ofNat_leNat_leBytes _ (by norm_num)]
  rfl

theorem trailerBytes_trailerOfBytes {bs : Bytes} (h : bs.length = 8) : trailerBytes (trailerOfBytes bs) = bs := by
  have hslices : trailerBytes (trailerOfBytes bs) = slice bs 0 4 ++ slice bs 4 2 ++ [byteAt bs 6, byteAt bs 7] := by
    simp only [trailerBytes, trailerOfBytes, field]
    rw [leBytes_ofNat_leNat (slice_length (by omega)) (by norm_num), leBytes_ofNat_leNat (slice_length (by omega)) (by norm_num)]
  rw [hslices]
  match bs, h with
  | [_, _, _, _, _, _, _, _], _ => rfl

@[simp] theorem headerBody_length (h : Header) : (headerBody h).length = 14 := by simp [headerBody]

theorem headerGood_iff (f : Frame) :
    headerGood f = true ↔ f.header.check = check16 ((headerBytes f.header).take 14) := by
  have htake : (headerBytes f.header).take 14 = headerBody f.header := by
    rw [headerBytes, List.take_left' (headerBody_length _)]
  rw [headerGood, htake, beq_iff_eq]

theorem frameDirection_eq (f : Frame) : frameDirection f = if f.header.form.toNat < 128 then .write else .read := by
  have hbit : f.header.form.getLsbD 7 = decide (128 ≤ f.header.form.toNat) := by
    exact BitVec.msb_eq_decide f.header.form
  rw [frameDirection, hbit]
  by_cases h : f.header.form.toNat < 128
  · simp [h]
  · simp [h, not_lt.mp h]

end Sys2Proof.Machine

namespace Sys2Proof.Machine

/-- Settles O19. -/
theorem headersAndTrailersRoundTrip : Obligations.HeadersAndTrailersRoundTrip := by
  refine ⟨fun _ => rfl, fun _ => rfl, fun _ => rfl, fun n v => ⟨leBytes_length n v, fun i => toNat_byteAt_leBytes v⟩,
    fun f => ⟨rfl, frameDirection_eq f, rfl, rfl, fun h => ?_, headerGood_iff f, ?_⟩, ⟨rfl, fun bs b => ?_⟩,
    fun h => ⟨by simp [headerBytes], headerOfBytes_headerBytes h⟩, fun bs => headerBytes_headerOfBytes,
    fun t => ⟨by simp [trailerBytes], trailerOfBytes_trailerBytes t⟩, fun bs => trailerBytes_trailerOfBytes⟩
  · exact Nat.mod_eq_of_lt (by omega)
  · rw [payloadDamaged, bne_iff_ne]
  · rw [check16, List.foldl_append]
    change check16Byte (check16 bs) b = _
    rw [check16Byte, funext check16Shift_eq]

end Sys2Proof.Machine
end

section
/-! PROOFS. Deciphering undoes ciphering, in full blocks and with a stolen tail; formats and lengths; what the check word covers (R3 to R5, R11 to R18). -/

namespace Sys2Proof.Machine

/-! ### Blocks there and back -/

@[simp] theorem cipherBlock_symm (p : Equiv.Perm Block) (t b : Block) : cipherBlock p.symm t (cipherBlock p t b) = b := by
  simp [cipherBlock]

/-- Full blocks are deciphered under the tweaks under which they were ciphered, whatever follows them. -/
theorem cipherBlocks_symm (p : Equiv.Perm Block) {q : Nat} (t : Block) {bs : Bytes} (ys : Bytes) (h : 16 * q ≤ bs.length) :
    cipherBlocks p.symm q t (cipherBlocks p q t bs ++ ys) = bs.take (16 * q) := by
  induction q generalizing t bs with
  | zero => simp [cipherBlocks]
  | succ q ih =>
    have hlen : (bs.take 16).length = 16 := by rw [List.length_take]; omega
    have hdrop : 16 * q ≤ (bs.drop 16).length := by rw [List.length_drop]; omega
    have hfirst (b : Block) (xs : Bytes) : blockOfBytes (bytesOfBlock b ++ xs) = b := by
      rw [← blockOfBytes_take, List.take_left' (bytesOfBlock_length b), blockOfBytes_bytesOfBlock]
    rw [cipherBlocks, cipherBlocks, List.append_assoc, hfirst, cipherBlock_symm, List.drop_left' (bytesOfBlock_length _),
      ih _ hdrop, ← blockOfBytes_take bs, bytesOfBlock_blockOfBytes hlen, show 16 * (q + 1) = 16 + 16 * q by omega,
      List.take_add]

/-- The stolen tail goes back with the two tweaks exchanged (R12, R14). -/
theorem stealTail_symm (p : Equiv.Perm Block) (first second : Block) {bs : Bytes} (h : bs.length = 24) :
    stealTail p.symm second first (stealTail p first second bs) = bs := by
  have hhead : (bs.take 16).length = 16 := by rw [List.length_take]; omega
  have htail : (slice bs 16 8).length = 8 := slice_length (by omega)
  have hdrop : slice bs 16 8 = bs.drop 16 := List.take_of_length_le (by rw [List.length_drop]; omega)
  generalize hm : bytesOfBlock (cipherBlock p first (blockOfBytes (bs.take 16))) = mid
  have hmid : mid.length = 16 := by rw [← hm, bytesOfBlock_length]
  have hstolen : (slice bs 16 8 ++ mid.drop 8).length = 16 := by
    rw [List.length_append, htail, List.length_drop, hmid]
  have hout : stealTail p first second bs =
      bytesOfBlock (cipherBlock p second (blockOfBytes (slice bs 16 8 ++ mid.drop 8))) ++ mid.take 8 := by
    rw [← hm]
    rfl
  have hback : bytesOfBlock (cipherBlock p.symm second (blockOfBytes ((stealTail p first second bs).take 16))) =
      slice bs 16 8 ++ mid.drop 8 := by
    rw [hout, List.take_left' (bytesOfBlock_length _), blockOfBytes_bytesOfBlock, cipherBlock_symm,
      bytesOfBlock_blockOfBytes hstolen]
  have htaken : slice (stealTail p first second bs) 16 8 = mid.take 8 := by
    rw [hout]
    exact slice_append_length (bytesOfBlock_length _) (by rw [List.length_take]; omega)
  have hmidBack : bytesOfBlock (cipherBlock p.symm first (blockOfBytes mid)) = bs.take 16 := by
    rw [← hm, blockOfBytes_bytesOfBlock, cipherBlock_symm, bytesOfBlock_blockOfBytes hhead]
  rw [stealTail, hback, htaken, List.drop_left' htail, List.take_append_drop, hmidBack, List.take_left' htail, hdrop,
    List.take_append_drop]

/-- Deciphering undoes ciphering on full blocks, and on one full block or more with a tail (R11 to R14). -/
theorem decipherRegion_cipherRegion (p : Equiv.Perm Block) (t0 : Block) {region : Bytes} {q : Nat}
    (h : region.length = 16 * q ∨ (region.length = 16 * q + 8 ∧ 1 ≤ q)) :
    decipherRegion p t0 (cipherRegion p t0 region) = region := by
  have hlen := (region_lengths p t0 h).1
  obtain hfull | ⟨htail, hq⟩ := h
  · have hback := cipherBlocks_symm p t0 [] hfull.symm.le
    rw [List.append_nil] at hback
    rw [decipherRegion_of_full p t0 (hlen.trans hfull), cipherRegion_of_full p t0 hfull, hback,
      List.take_of_length_le hfull.le]
  · have hblocks : (cipherBlocks p (q - 1) t0 region).length = 16 * (q - 1) := cipherBlocks_length ..
    rw [decipherRegion_of_tail p t0 (hlen.trans htail), cipherRegion_of_tail p t0 htail,
      cipherBlocks_symm p t0 _ (by omega), List.drop_left' hblocks, stealTail_symm p _ _ (by rw [List.length_drop]; omega),
      List.take_append_drop]

/-! ### Formats -/

/-- The ciphered length is a number of full blocks, or one full block or more and a tail of 8 bytes (R5). -/
theorem cipheredLength_blocks (m : Bool) (f : FormatCode) :
    ∃ q, cipheredLength m f = 16 * q ∨ (cipheredLength m f = 16 * q + 8 ∧ 1 ≤ q) := by
  refine ⟨cipheredLength m f / 16, ?_⟩
  revert m f
  decide

theorem cipheredLength_le (m : Bool) (f : FormatCode) : cipheredLength m f ≤ sectorLength f := by
  revert m f
  decide

/-- A region of the ciphered length goes there and back. -/
theorem decipherRegion_of_ciphered (p : Equiv.Perm Block) (t0 : Block) {m : Bool} {f : FormatCode} {region : Bytes}
    (h : region.length = cipheredLength m f) : decipherRegion p t0 (cipherRegion p t0 region) = region := by
  obtain ⟨q, hq⟩ := cipheredLength_blocks m f
  exact decipherRegion_cipherRegion p t0 (h ▸ hq)

theorem cipherRegion_length (p : Equiv.Perm Block) (t0 : Block) {m : Bool} {f : FormatCode} {region : Bytes}
    (h : region.length = cipheredLength m f) : (cipherRegion p t0 region).length = cipheredLength m f := by
  obtain ⟨q, hq⟩ := cipheredLength_blocks m f
  exact (region_lengths p t0 (h ▸ hq)).1.trans h

theorem take_cipheredLength {i : InputSet} {plain : Bytes} (h : plain.length = sectorLength i.format) :
    (plain.take (cipheredLength i.metaCipher i.format)).length = cipheredLength i.metaCipher i.format := by
  rw [List.length_take, h]
  exact min_eq_left (cipheredLength_le ..)

/-- The check word covers the data and, in a format with metadata, the metadata bytes that the mask selects (R17). -/
theorem sectorCheck_eq (f : FormatCode) (mask : Byte) (plain : Bytes) :
    sectorCheck f mask plain = check32 (plain.take (dataLength f) ++
      ((List.range (sectorLength f - dataLength f)).filter (fun n => mask.getLsbD n)).map
        (fun n => byteAt (plain.drop (dataLength f)) n)) := by
  have hm : sectorLength f - dataLength f = metaLength f := Nat.add_sub_cancel_left ..
  rw [sectorCheck, hm]
  by_cases h : metaLength f = 8
  · simp only [h, if_true]
    rfl
  · have h0 : metaLength f = 0 := by
      revert h
      revert f
      decide
    simp only [h0, Nat.zero_ne_add_one, if_false, List.range_zero, List.filter_nil, List.map_nil, List.append_nil]

end Sys2Proof.Machine

namespace Sys2Proof.Machine

/-- Settles O16. -/
theorem sectorRoundTrip : Obligations.SectorRoundTrip := by
  refine ⟨by decide, by decide, fun i plain h => ⟨?_, ?_, ?_⟩, fun i a b ha hb h => ?_, fun i plain => ⟨?_, ?_⟩, rfl,
    fun bs b => ?_⟩
  · rw [inverseSector]
    exact (congrArg (· ++ _) (decipherRegion_of_ciphered _ _ (take_cipheredLength h))).trans (List.take_append_drop _ _)
  · exact cipherRegion_length _ _ (take_cipheredLength h)
  · exact List.length_drop.trans (congrArg (· - _) h)
  · rw [← decipherRegion_of_ciphered _ (sectorTweak i) ha, h, decipherRegion_of_ciphered _ _ hb]
  · exact sectorCheck_eq ..
  · exact List.all_eq_true.trans (forall₂_congr fun b _ => beq_iff_eq)
  · rw [check32_append, check32Byte, funext check32Shift_eq]

end Sys2Proof.Machine
end

section
/-! PROOFS. The wrapped key record: its parts, its opening, its refusal (R49 to R52). -/

namespace Sys2Proof.Machine

/-! ### Keys in bytes -/

@[simp] theorem bytesOfKey_length (k : Key) : (bytesOfKey k).length = 32 := leBytes_length ..

@[simp] theorem leNat_bytesOfKey (k : Key) : leNat (bytesOfKey k) = k.toNat := leNat_leBytes_of_lt k.isLt

/-- A key is read from its bytes, whatever follows them. -/
theorem keyOfBytes_bytesOfKey (k : Key) (bs : Bytes) : keyOfBytes (bytesOfKey k ++ bs) = k := by
  rw [keyOfBytes, List.take_left' (bytesOfKey_length k), bytesOfKey, ofNat_leNat_leBytes k (by norm_num)]

theorem bytesOfKey_keyOfBytes {bs : Bytes} (h : 32 ≤ bs.length) : bytesOfKey (keyOfBytes bs) = bs.take 32 :=
  leBytes_ofNat_leNat (by rw [List.length_take]; omega) (by norm_num)

/-! ### The parts of a record -/

section
variable (w : WrappingKey) (g : Generation) (nonce : Nonce) (dataKey tweakKey : Key)

@[simp] theorem recordHeader_length : (recordHeader g nonce).length = 16 := by simp [recordHeader]

/-- The 64 bytes of the ciphered keys (R50). -/
def cipheredKeys : Bytes :=
  cipherRegion (Config.blockTransform w.halfA) (Config.blockTransform w.halfB (blockOfBytes (recordHeader g nonce)))
    (bytesOfKey dataKey ++ bytesOfKey tweakKey)

theorem keys_length : (bytesOfKey dataKey ++ bytesOfKey tweakKey).length = 16 * 4 := by simp

@[simp] theorem cipheredKeys_length : (cipheredKeys w g nonce dataKey tweakKey).length = 64 :=
  (region_lengths _ _ (.inl (keys_length dataKey tweakKey))).1.trans (keys_length dataKey tweakKey)

theorem recordBody_eq : recordBody w g nonce dataKey tweakKey =
    recordHeader g nonce ++ cipheredKeys w g nonce dataKey tweakKey := rfl

@[simp] theorem recordBody_length : (recordBody w g nonce dataKey tweakKey).length = 80 := by
  rw [recordBody_eq, List.length_append, recordHeader_length, cipheredKeys_length]

@[simp] theorem checkBlock_length (bs : Bytes) : (checkBlock w bs).length = 16 := bytesOfBlock_length _

theorem makeRecord_eq : makeRecord w g nonce dataKey tweakKey =
    recordBody w g nonce dataKey tweakKey ++ checkBlock w (recordBody w g nonce dataKey tweakKey) := rfl

theorem body_take_header (x : Bytes) : (recordBody w g nonce dataKey tweakKey ++ x).take 16 = recordHeader g nonce := by
  rw [recordBody_eq, List.append_assoc, List.take_left' (recordHeader_length ..)]

theorem body_slice_keys (x : Bytes) :
    slice (recordBody w g nonce dataKey tweakKey ++ x) 16 64 = cipheredKeys w g nonce dataKey tweakKey := by
  rw [slice_append_left _ _ (by rw [recordBody_length]), recordBody_eq]
  exact slice_append_length (recordHeader_length ..) (cipheredKeys_length ..)

theorem body_slice_header {off len : Nat} (h : off + len ≤ 16) (x : Bytes) :
    slice (recordBody w g nonce dataKey tweakKey ++ x) off len = slice (recordHeader g nonce) off len := by
  rw [slice_append_left _ _ (by rw [recordBody_length]; omega), recordBody_eq,
    slice_append_left _ _ (by rw [recordHeader_length]; exact h)]

theorem body_generation (x : Bytes) : field (recordBody w g nonce dataKey tweakKey ++ x) 1 2 = g.toNat := by
  have h : slice (recordHeader g nonce) 1 2 = leBytes 2 g.toNat := rfl
  rw [field, body_slice_header _ _ _ _ _ (by omega), h]
  exact leNat_leBytes_of_lt g.isLt

theorem body_nonce (x : Bytes) : field (recordBody w g nonce dataKey tweakKey ++ x) 3 13 = nonce.toNat := by
  have h : slice (recordHeader g nonce) 3 13 = leBytes 13 nonce.toNat := rfl
  rw [field, body_slice_header _ _ _ _ _ (by omega), h]
  exact leNat_leBytes_of_lt nonce.isLt

/-- The ciphered keys are deciphered under the same wrapping key. -/
theorem decipher_cipheredKeys :
    decipherRegion (Config.blockTransform w.halfA) (Config.blockTransform w.halfB (blockOfBytes (recordHeader g nonce)))
      (cipheredKeys w g nonce dataKey tweakKey) = bytesOfKey dataKey ++ bytesOfKey tweakKey :=
  decipherRegion_cipherRegion _ _ (.inl (keys_length dataKey tweakKey))

/-- A record of a made body opens exactly if its last 16 bytes are the check block (R52). -/
theorem openRecord_body {x : Bytes} (hx : x.length = 16) :
    openRecord w (recordBody w g nonce dataKey tweakKey ++ x) =
      if checkBlock w (recordBody w g nonce dataKey tweakKey) = x then some (dataKey, tweakKey, g) else none := by
  have hbody := recordBody_length w g nonce dataKey tweakKey
  have hkeys : decipherWithSeed w.halfB w.halfA (blockOfBytes (recordBody w g nonce dataKey tweakKey ++ x))
      (slice (recordBody w g nonce dataKey tweakKey ++ x) 16 64) = bytesOfKey dataKey ++ bytesOfKey tweakKey := by
    rw [← blockOfBytes_take, body_take_header, body_slice_keys]
    exact decipher_cipheredKeys ..
  have htweak := keyOfBytes_bytesOfKey tweakKey []
  rw [List.append_nil] at htweak
  rw [openRecord, List.take_left' hbody, slice_append_length hbody hx]
  simp only [hkeys, keyOfBytes_bytesOfKey, List.drop_left' (bytesOfKey_length dataKey), htweak, body_generation,
    BitVec.ofNat_toNat, BitVec.setWidth_eq]

end

/-- A chain step reads the first block of what is left (R51). -/
theorem chainBlocks_succ (p : Equiv.Perm Block) (n : Nat) (c : Block) (bs : Bytes) (off : Nat) :
    chainBlocks p (n + 1) c (bs.drop off) =
      chainBlocks p n (p (c ^^^ blockOfBytes (slice bs off 16))) (bs.drop (off + 16)) := by
  rw [chainBlocks, List.drop_drop, slice, blockOfBytes_take]

/-- The check block is a chain over five blocks (R51). -/
theorem checkBlock_eq (w : WrappingKey) (bs : Bytes) :
    let b := Config.blockTransform w.halfB
    let x (j : Nat) : Block := blockOfBytes (slice bs (16 * j) 16)
    checkBlock w bs = bytesOfBlock (b (b (b (b (b (0 ^^^ x 0) ^^^ x 1) ^^^ x 2) ^^^ x 3) ^^^ x 4)) := by
  intro b x
  have h : chainBlocks b 5 0 (bs.drop 0) = b (b (b (b (b (0 ^^^ x 0) ^^^ x 1) ^^^ x 2) ^^^ x 3) ^^^ x 4) := by
    rw [chainBlocks_succ, chainBlocks_succ, chainBlocks_succ, chainBlocks_succ, chainBlocks_succ, chainBlocks]
  exact congrArg bytesOfBlock h

theorem slice_slice {bs : Bytes} {off len o l : Nat} (h : o + l ≤ len) :
    slice (slice bs off len) o l = slice bs (off + o) l := by
  simp only [slice, List.drop_take, List.take_take, List.drop_drop]
  congr 1
  omega

/-- A record that opens gives the generation and the deciphered keys that it carries (R52). -/
theorem openRecord_some {w : WrappingKey} {record : Bytes} {dataKey tweakKey : Key} {g : Generation}
    (hlen : record.length = 96) (h : openRecord w record = some (dataKey, tweakKey, g)) :
    field record 1 2 = g.toNat ∧ bytesOfKey dataKey ++ bytesOfKey tweakKey =
      decipherWithSeed w.halfB w.halfA (blockOfBytes record) (slice record 16 64) := by
  have hfield : field record 1 2 < 2 ^ 16 := by
    have hlt := leNat_lt (slice record 1 2)
    rwa [slice_length (by omega)] at hlt
  have hregion : (slice record 16 64).length = 16 * 4 := slice_length (by omega)
  have hkeys : (decipherWithSeed w.halfB w.halfA (blockOfBytes record) (slice record 16 64)).length = 64 :=
    (region_lengths _ _ (.inl hregion)).2.trans hregion
  unfold openRecord at h
  split_ifs at h
  dsimp only at h
  obtain ⟨rfl, rfl, rfl⟩ : _ ∧ _ ∧ _ := by simpa only [Option.some.injEq, Prod.mk.injEq] using h
  refine ⟨(Nat.mod_eq_of_lt hfield).symm, ?_⟩
  rw [bytesOfKey_keyOfBytes (by omega), bytesOfKey_keyOfBytes (by rw [List.length_drop]; omega),
    List.take_of_length_le (l := List.drop _ _) (by rw [List.length_drop]; omega), List.take_append_drop]

end Sys2Proof.Machine

namespace Sys2Proof.Machine

/-- Settles O18. -/
theorem wrappedRecordRoundTrip : Obligations.WrappedRecordRoundTrip := by
  refine ⟨fun w g nonce dataKey tweakKey => ?_, fun k => ⟨bytesOfKey_length k, leNat_bytesOfKey k⟩,
    fun w record dataKey tweakKey g hlen h => ?_⟩
  · have hbody := recordBody_length w g nonce dataKey tweakKey
    have hcheck : (checkBlock w (recordBody w g nonce dataKey tweakKey)).length = 16 := checkBlock_length ..
    rw [makeRecord_eq]
    dsimp only
    rw [body_take_header, body_slice_keys, slice_append_length hbody hcheck, List.take_left' hbody, openRecord_body _ _ _ _ _ hcheck]
    refine ⟨by rw [List.length_append, hbody, hcheck], rfl, body_generation .., body_nonce .., ⟨rfl, keys_length .., fun j hj => ?_⟩,
      ?_, if_pos rfl, fun other ho hne => ?_⟩
    · rw [← slice_slice (len := 64) (by omega), body_slice_keys, cipheredKeys, cipherRegion_of_full _ _ (keys_length ..)]
      exact slice_cipherBlocks _ _ _ hj
    · have hblock (j : Nat) (hj : j < 5) :
          slice (recordBody w g nonce dataKey tweakKey ++ checkBlock w (recordBody w g nonce dataKey tweakKey)) (16 * j) 16 =
            slice (recordBody w g nonce dataKey tweakKey) (16 * j) 16 := slice_append_left _ _ (by omega)
      rw [hblock 0 (by omega), hblock 1 (by omega), hblock 2 (by omega), hblock 3 (by omega), hblock 4 (by omega)]
      exact checkBlock_eq ..
    · rw [openRecord_body _ _ _ _ _ ho, if_neg (Ne.symm hne)]
  · obtain ⟨hfield, hkeys⟩ := openRecord_some hlen h
    exact ⟨hfield, by rw [hkeys, blockOfBytes_take]; rfl⟩

end Sys2Proof.Machine
end

section
/-! PROOFS. The frames that the part builds, field by field (R82, R95, R106, R119 to R123, R132, R135, R139, R158, R161). -/

namespace Sys2Proof.Machine

/-- A header states the length of its payload, its unused bytes are zero and both checks of the frame pass (R123). -/
def Whole (f : Frame) : Prop :=
  f.header.length.toNat = f.payload.length % 2 ^ 16 ∧ f.header.unused = 0 ∧ headerGood f = true ∧ payloadDamaged f = false

theorem whole_buildFrame (kind tag index form : Byte) (lba count : Nat) (payload : Bytes) :
    Whole (buildFrame kind tag index form lba count payload) :=
  ⟨BitVec.toNat_ofNat .., rfl, beq_self_eq_true _, bne_self_eq_false _⟩

theorem toNat_tagByte (t : Tag) : (BitVec.ofNat 8 t.val).toNat = t.val := Nat.mod_eq_of_lt (by omega)

theorem toNat_formOf {format status direction : Nat} (hf : format < 4) (hs : status < 8) (hd : direction < 2) :
    (formOf format status direction).toNat = format + 8 * status + 128 * direction := by
  have hlt : format + 8 * status + 128 * direction < 2 ^ 8 := by omega
  exact Nat.mod_eq_of_lt hlt

/-! ### Sector frames -/

/-- A media frame's fields but for its payload (R120, Table 11-3). -/
theorem mediaFrame_fields (kind : Byte) (t : Tag) (c : Context) (index lba : Nat) (payload : Bytes) :
    let f := mediaFrame kind t c index lba payload
    f.header.tag.toNat = t.val ∧ f.header.index.toNat = index % 256 ∧ frameLba f = lba % 2 ^ 40 ∧
      f.header.form.toNat = c.format.val ∧ f.header.countLess1.toNat = (c.count - 1) % 256 ∧ Whole f :=
  ⟨toNat_tagByte t, BitVec.toNat_ofNat .., BitVec.toNat_ofNat .., toNat_formOf c.format.isLt (by omega) (by omega),
    BitVec.toNat_ofNat .., whole_buildFrame ..⟩

theorem readStatusCode_lt (r : ReadStatus) : readStatusCode r < 8 := by cases r <;> decide

/-- A front SECTOR's fields but for its kind and payload (R132, Table 11-3). -/
theorem readFrame_fields (t : Tag) (c : Context) (i : Nat) (r : ReadStatus) (sector : Bytes) :
    let f := readFrame t c i r sector
    f.header.tag.toNat = t.val ∧ f.header.index.toNat = i % 256 ∧
      f.header.form.toNat = c.format.val + 128 + 8 * readStatusCode r ∧ frameLba f = (c.start + i) % 2 ^ 40 ∧
      f.header.countLess1.toNat = (c.count - 1) % 256 ∧ Whole f := by
  have hform := toNat_formOf (direction := 1) c.format.isLt (readStatusCode_lt r) (by omega)
  exact ⟨toNat_tagByte t, BitVec.toNat_ofNat .., hform.trans (by omega), BitVec.toNat_ofNat .., BitVec.toNat_ofNat ..,
    whole_buildFrame ..⟩

theorem sectorLength_lt (f : FormatCode) : sectorLength f + 8 < 2 ^ 16 := by
  revert f
  decide

/-- A frame whose payload is short states its length. -/
theorem Whole.length_eq {f : Frame} {n : Nat} (h : Whole f) (hn : f.payload.length = n) (hlt : n < 2 ^ 16) :
    f.header.length.toNat = n := by
  rw [h.1, hn, Nat.mod_eq_of_lt hlt]

@[simp] theorem trailerBytes_length (t : Trailer) : (trailerBytes t).length = 8 := by simp [trailerBytes]

theorem zeroTest_iff (plain : Bytes) : zeroTest plain = true ↔ ∀ b ∈ plain, b = 0 :=
  List.all_eq_true.trans (forall₂_congr fun _ _ => beq_iff_eq)

/-- The region and the clear metadata of a forward computation, and the trailer, in bytes (R5, R120). -/
theorem written_length {i : InputSet} {plain : Bytes} (h : plain.length = sectorLength i.format) (t : Trailer) :
    ((forwardSector i plain).region ++ (forwardSector i plain).clear ++ trailerBytes t).length = sectorLength i.format + 8 := by
  have hregion : (forwardSector i plain).region.length = cipheredLength i.metaCipher i.format :=
    cipherRegion_length _ _ (take_cipheredLength h)
  have hclear : (forwardSector i plain).clear.length = sectorLength i.format - cipheredLength i.metaCipher i.format :=
    List.length_drop.trans (congrArg (· - _) h)
  rw [List.length_append, List.length_append, hregion, hclear, trailerBytes_length]
  have := cipheredLength_le i.metaCipher i.format
  omega

/-- Deciphering keeps the length of a region of the ciphered length, and the clear metadata follow (R5, R13). -/
theorem inverseSector_length {i : InputSet} {region clear : Bytes}
    (hr : region.length = cipheredLength i.metaCipher i.format)
    (hc : clear.length = sectorLength i.format - cipheredLength i.metaCipher i.format) :
    (inverseSector i region clear).length = sectorLength i.format := by
  obtain ⟨q, hq⟩ := cipheredLength_blocks i.metaCipher i.format
  have hlen := (region_lengths (Config.blockTransform i.dataKey) (sectorTweak i) (hr ▸ hq)).2
  rw [inverseSector, List.length_append, hlen, hr, hc]
  have := cipheredLength_le i.metaCipher i.format
  omega

/-! ### COMPLETIONs -/

/-- Two bytes of a number are the number below 2^16. -/
theorem leNat_leBytes_two (n : Nat) : leNat (leBytes 2 n) = n % 2 ^ 16 := leNat_leBytes 2 n

/-- The read status counts that a COMPLETION carries: zero for a WRITE (R82). -/
def reportedCounts (c : Context) : ReadCounts := if c.direction = .read then c.counts else ⟨0, 0, 0, 0, 0⟩

theorem completionPayload_eq (c : Context) :
    completionPayload c =
      leBytes 2 c.finished ++ [BitVec.ofNat 8 (bitValue c.firstFail.isSome 0), BitVec.ofNat 8 (c.firstFail.getD 0)] ++
        leBytes 2 (reportedCounts c).stale ++ leBytes 2 (reportedCounts c).checkFail ++ leBytes 2 (reportedCounts c).zero ++
        leBytes 2 (reportedCounts c).void ++ leBytes 2 (reportedCounts c).mismatch := by
  unfold completionPayload reportedCounts
  cases c.direction <;> rfl

/-- The fields of a COMPLETION's payload (Table 11-9a). -/
theorem completionPayload_fields (c : Context) :
    let p := completionPayload c
    let n := reportedCounts c
    p.length = 14 ∧ field p 0 2 = c.finished % 2 ^ 16 ∧
      (byteAt p 2).toNat = (if c.firstFail.isSome = true then 1 else 0) ∧ (byteAt p 3).toNat = c.firstFail.getD 0 % 256 ∧
      [4, 6, 8, 10, 12].map (fun i => field p i 2) =
        [n.stale, n.checkFail, n.zero, n.void, n.mismatch].map (fun x => x % 2 ^ 16) := by
  have hflag : (BitVec.ofNat 8 (bitValue c.firstFail.isSome 0)).toNat = if c.firstFail.isSome = true then 1 else 0 := by
    cases c.firstFail.isSome <;> rfl
  rw [completionPayload_eq]
  refine ⟨by simp, leNat_leBytes_two c.finished, hflag, BitVec.toNat_ofNat .., ?_⟩
  simp only [List.map_cons, List.map_nil, ← leNat_leBytes_two]
  rfl

theorem toNat_endingCode (e : Ending) : (BitVec.ofNat 8 (endingCode e)).toNat = endingCode e := by cases e <;> rfl

theorem toNat_resultCode (r : Result) : (BitVec.ofNat 8 (resultCode r)).toNat = resultCode r := by cases r <;> rfl

end Sys2Proof.Machine

namespace Sys2Proof.Machine

/-- Settles O20, frame by frame. -/
theorem outputFrames : Obligations.OutputFrames := by
  refine ⟨fun j plain c hj => ?_, fun j region clear t c hj => ?_, fun t c i r sector => ?_, fun x => ?_, fun t c e he => ?_,
    fun d r data => ?_⟩
  · have hframe : outputFrame j c = writeOutput j plain c := by rw [outputFrame, hj]
    have hzero : (j.inputs.zeroMark && (forwardSector j.inputs plain).zero) = true ↔
        j.inputs.zeroMark = true ∧ ∀ b ∈ plain, b = 0 := by
      rw [Bool.and_eq_true]
      exact and_congr_right fun _ => zeroTest_iff plain
    dsimp only
    rw [hframe, writeOutput]
    by_cases h : j.inputs.zeroMark = true ∧ ∀ b ∈ plain, b = 0
    · rw [if_pos (hzero.mpr h)]
      obtain ⟨htag, hindex, hlba, hform, hcount, hwhole⟩ := mediaFrame_fields Kind.zero j.tag c j.index j.inputs.lba
        (trailerBytes (writtenTrailer j.inputs (forwardSector j.inputs plain)))
      exact ⟨fun _ => ⟨rfl, rfl, hwhole.length_eq (trailerBytes_length _) (by omega)⟩, fun hn => absurd h hn, htag, hindex, hlba,
        hform, hcount, hwhole⟩
    · rw [if_neg (mt hzero.mp h)]
      obtain ⟨htag, hindex, hlba, hform, hcount, hwhole⟩ := mediaFrame_fields Kind.sector j.tag c j.index j.inputs.lba
        ((forwardSector j.inputs plain).region ++ (forwardSector j.inputs plain).clear ++
          trailerBytes (writtenTrailer j.inputs (forwardSector j.inputs plain)))
      exact ⟨fun hy => absurd hy h, fun _ => ⟨rfl, rfl, fun hlen =>
        hwhole.length_eq (written_length hlen _) (sectorLength_lt _)⟩, htag, hindex, hlba, hform, hcount, hwhole⟩
  · have hframe : outputFrame j c = readOutput j region clear t c := by rw [outputFrame, hj]
    dsimp only
    rw [hframe, readOutput]
    generalize hs : (if sectorCheck j.inputs.format j.inputs.checkMask (inverseSector j.inputs region clear) = t.check then
      ReadStatus.good else .checkFail) = status
    obtain ⟨htag, hindex, hform, hlba, hcount, hwhole⟩ :=
      readFrame_fields j.tag c j.index status (inverseSector j.inputs region clear)
    have hstatus : outputStatus (readFrame j.tag c j.index status (inverseSector j.inputs region clear)) = status := by
      rw [outputStatus, hform]
      have := c.format.isLt
      split_ifs at hs <;> subst hs
      · exact if_neg (by simp only [readStatusCode]; omega)
      · exact if_pos (by simp only [readStatusCode]; omega)
    refine ⟨fun hgood => ?_, fun hbad => ?_, rfl, rfl, htag, hindex, hlba, hcount, fun hr hc =>
      hwhole.length_eq (inverseSector_length hr hc) (by have := sectorLength_lt j.inputs.format; omega), hwhole⟩
    · rw [if_pos hgood] at hs
      subst hs
      exact ⟨hform, hstatus⟩
    · rw [if_neg hbad] at hs
      subst hs
      exact ⟨hform.trans (by simp only [readStatusCode]), hstatus⟩
  · obtain ⟨htag, hindex, hform, hlba, hcount, hwhole⟩ := readFrame_fields t c i r sector
    exact ⟨rfl, htag, hindex, hform.trans (by cases r <;> rfl), hlba, hcount, rfl, hwhole⟩
  · refine ⟨by cases x <;> rfl, rfl, rfl, rfl, rfl, rfl, rfl, whole_buildFrame ..⟩
  · obtain ⟨hlen, hfin, hpresent, hfail, hcounts⟩ := completionPayload_fields c
    have hwhole : Whole (completionFrame t c) := whole_buildFrame ..
    refine ⟨rfl, toNat_tagByte t, ?_, ?_, BitVec.toNat_ofNat .., BitVec.toNat_ofNat .., hwhole.length_eq hlen (by omega), hlen, hfin,
      hpresent, hfail, hcounts, hwhole⟩
    · change (BitVec.ofNat 8 ((c.ending.map endingCode).getD 0)).toNat = _
      rw [he]
      exact (toNat_endingCode e).trans (by cases e <;> rfl)
    · refine (toNat_formOf c.format.isLt (by omega) (by cases c.direction <;> decide)).trans ?_
      cases c.direction <;> rfl
  · refine ⟨rfl, rfl, (toNat_resultCode r).trans (by cases r <;> rfl), rfl, rfl, rfl, fun hd => ?_, fun hd => ?_, rfl,
      whole_buildFrame ..⟩
    · change some (byteAt d.payload 0) = _
      rw [hd]
      rfl
    · change some (byteAt d.payload 0) = _
      obtain ⟨b, bs, hb⟩ := List.exists_cons_of_ne_nil hd
      rw [hb]
      rfl

end Sys2Proof.Machine
end

section
/-! PROOFS. The five views of QUERY at every offset (R144, Table 11-8). -/

namespace Sys2Proof.Machine

/-! ### Bytes made of bits -/

theorem toNat_oneByte (n : Nat) : (oneByte n).toNat = n % 256 := BitVec.toNat_ofNat ..

theorem toNat_oneByte_of_lt {n : Nat} (h : n < 256) : (oneByte n).toNat = n := Nat.mod_eq_of_lt h

/-- Three bits and a code of three values in one byte. -/
theorem bits_of_portByte : ∀ (a b c : Bool) (n : Fin 3),
    let x := oneByte (bitValue a 0 + bitValue b 1 + bitValue c 2 + 8 * n.val)
    x.getLsbD 0 = a ∧ x.getLsbD 1 = b ∧ x.getLsbD 2 = c ∧ x.toNat / 8 = n.val := by decide

/-- Two bits in one byte. -/
theorem bits_of_two : ∀ a b : Bool,
    let x := oneByte (bitValue a 0 + bitValue b 1)
    x.getLsbD 0 = a ∧ x.getLsbD 1 = b ∧ x.toNat < 4 := by decide

/-- Three bits in one byte. -/
theorem bits_of_three : ∀ a b c : Bool,
    let x := oneByte (bitValue a 0 + bitValue b 1 + bitValue c 2)
    x.getLsbD 0 = a ∧ x.getLsbD 1 = b ∧ x.getLsbD 2 = c ∧ x.toNat < 8 := by decide

/-- The five attributes of a range and its enabled bit in one byte. -/
theorem bits_of_attributeByte : ∀ a b c d e f : Bool,
    let x := oneByte (bitValue a 0 + bitValue b 1 + bitValue c 2 + bitValue d 3 + bitValue e 4 + bitValue f 7)
    x.getLsbD 0 = a ∧ x.getLsbD 1 = b ∧ x.getLsbD 2 = c ∧ x.getLsbD 3 = d ∧ x.getLsbD 4 = e ∧ x.getLsbD 5 = false ∧
      x.getLsbD 6 = false ∧ x.getLsbD 7 = f := by decide

/-- Bit `i` of a word is a bit of one of its bytes. -/
theorem getLsbD_byteAt_leBytes {k w i : Nat} (x : BitVec w) (h : i / 8 < k) :
    (byteAt (leBytes k x.toNat) (i / 8)).getLsbD (i % 8) = x.getLsbD i := by
  have hpow : 256 ^ (i / 8) = 2 ^ (8 * (i / 8)) := by rw [pow_mul]; rfl
  have hi : i % 8 + 8 * (i / 8) = i := Nat.mod_add_div i 8
  have hlt : i % 8 < 8 := Nat.mod_lt _ (by omega)
  rw [BitVec.getLsbD, toNat_byteAt_leBytes _ h, hpow, show 256 = 2 ^ 8 from rfl, Nat.testBit_mod_two_pow,
    Nat.testBit_div_two_pow, hi, BitVec.getLsbD]
  simp only [hlt, decide_true, Bool.true_and]

/-! ### The ENGINE view -/

/-- The code of a port's pending flow frame. -/
def pendingCode (x : Port) : Fin 3 := match x.pendingFlow with | none => 0 | some .hold => 1 | some .go => 2

theorem portByte_eq (x : Port) :
    portByte x = oneByte (bitValue (x.link == .up) 0 + bitValue x.held 1 + bitValue x.peerHold 2 + 8 * (pendingCode x).val) := by
  unfold portByte pendingCode
  rcases x.pendingFlow with _ | _ | _ <;> rfl

theorem portByte_bits (x : Port) :
    ((portByte x).getLsbD 0 = true ↔ x.link = .up) ∧ (portByte x).getLsbD 1 = x.held ∧ (portByte x).getLsbD 2 = x.peerHold ∧
      (portByte x).toNat / 8 = (match x.pendingFlow with | none => 0 | some .hold => 1 | some .go => 2) := by
  obtain ⟨hlink, hheld, hpeer, hcode⟩ := bits_of_portByte (x.link == .up) x.held x.peerHold (pendingCode x)
  rw [← portByte_eq] at hlink hheld hpeer hcode
  refine ⟨by rw [hlink, beq_iff_eq], hheld, hpeer, hcode.trans ?_⟩
  unfold pendingCode
  rcases x.pendingFlow with _ | _ | _ <;> rfl

theorem laneCode_lt (x : Lane) : laneCode x < 3 := by cases x <;> simp [laneCode]

/-- The four two-bit codes of the lanes in one byte. -/
theorem laneByte_code (s : State) (l : LaneIx) :
    (oneByte (laneCode s.lanes[0] + 4 * laneCode s.lanes[1] + 16 * laneCode s.lanes[2] + 64 * laneCode s.lanes[3])).toNat /
      4 ^ l.val % 4 = laneCode s.lanes[l] := by
  have h0 := laneCode_lt s.lanes[0]
  have h1 := laneCode_lt s.lanes[1]
  have h2 := laneCode_lt s.lanes[2]
  have h3 := laneCode_lt s.lanes[3]
  rw [toNat_oneByte_of_lt (by omega)]
  match l with
  | 0 => change _ / 1 % 4 = laneCode s.lanes[0]; omega
  | 1 => change _ / 4 % 4 = laneCode s.lanes[1]; omega
  | 2 => change _ / 16 % 4 = laneCode s.lanes[2]; omega
  | 3 => change _ / 64 % 4 = laneCode s.lanes[3]; omega

/-! ### The other views -/

/-- The number of ranges that reference a slot, counted over all ranges. -/
theorem referenceCount_eq (s : State) (k : SlotIx) :
    referenceCount s.ranges k =
      (Finset.univ.filter (fun j : RangeIx => s.ranges[j].enabled = true ∧ s.ranges[j].slot = some k)).card := by
  rw [referenceCount, rangeIndices, ← List.toFinset_card_of_nodup ((List.nodup_finRange 16).filter _)]
  congr 1
  ext j
  simp [-Fin.getElem_fin, references]

theorem referenceCount_lt (s : State) (k : SlotIx) : referenceCount s.ranges k < 256 := by
  have h := List.length_filter_le (fun j => references s.ranges[j] k) rangeIndices
  rw [rangeIndices, List.length_finRange] at h
  exact Nat.lt_of_le_of_lt h (by omega)

theorem timeRemaining_ahead {now d : Time} (h : (d - now).toNat < 2 ^ 63) : timeRemaining now d = (d - now).toNat :=
  if_pos h

theorem timeRemaining_passed {now d : Time} (h : 2 ^ 63 ≤ (d - now).toNat) : timeRemaining now d = 0 :=
  if_neg (not_lt.mpr h)

/-- The idle deadline as the CONTEXT view shows it. -/
def shownDeadline (now : Time) (c : Context) : Nat :=
  match c.deadline with
  | none => 0
  | some d => timeRemaining now d

section
variable (t : Tag) (now : Time) (c : Context)

theorem contextView_length : (contextView t now c).length = 64 := by simp [contextView]

/-- The single bytes at offsets 0 to 3. -/
theorem contextView_codes :
    let v := contextView t now c
    (byteAt v 0).toNat = t.val ∧
    (byteAt v 1).toNat =
      (match c.state with | .free => 0 | .active => 1 | .flushing => 2 | .ending => 3 | .reporting => 4) ∧
    (byteAt v 2).toNat = (match c.direction with | .write => 0 | .read => 1) ∧ (byteAt v 3).toNat = c.format.val := by
  simp only [contextView, byteAt, leBytes, List.cons_append, List.nil_append, List.getD_cons_succ, List.getD_cons_zero]
  refine ⟨toNat_oneByte_of_lt (by omega), ?_, ?_, toNat_oneByte_of_lt (by omega)⟩
  · cases c.state <;> rfl
  · cases c.direction <;> rfl

/-- The numbers at offsets 4 to 14. -/
theorem contextView_numbers :
    let v := contextView t now c
    field v 4 5 = c.start % 2 ^ 40 ∧ (byteAt v 9).toNat = (c.count - 1) % 256 ∧
    field v 10 2 = c.taken % 2 ^ 16 ∧ field v 12 2 = c.finished % 2 ^ 16 ∧ (byteAt v 14).toNat = c.jobs % 256 := by
  simp only [contextView, List.append_assoc, List.cons_append, List.nil_append]
  refine ⟨leNat_leBytes 5 c.start, ?_, leNat_leBytes 2 c.taken, leNat_leBytes 2 c.finished, ?_⟩
  · simp only [byteAt, leBytes, List.cons_append, List.nil_append, List.getD_cons_succ, List.getD_cons_zero, toNat_oneByte]
  · simp only [byteAt, leBytes, List.cons_append, List.nil_append, List.getD_cons_succ, List.getD_cons_zero, toNat_oneByte]

/-- The ending, the three presence bits and the first failing index at offsets 15 to 17. -/
theorem contextView_ending :
    let v := contextView t now c
    (byteAt v 15).toNat = (match c.ending with | none => 255 | some e => endingCode e) ∧
    ((byteAt v 16).getLsbD 0 = c.firstFail.isSome ∧ (byteAt v 16).getLsbD 1 = c.deadline.isSome ∧
      (byteAt v 16).getLsbD 2 = c.suppressed ∧ (byteAt v 16).toNat < 8) ∧
    (byteAt v 17).toNat = c.firstFail.getD 0 % 256 := by
  simp only [contextView, byteAt, leBytes, List.cons_append, List.nil_append, List.getD_cons_succ, List.getD_cons_zero]
  refine ⟨?_, bits_of_three c.firstFail.isSome c.deadline.isSome c.suppressed, toNat_oneByte _⟩
  cases c.ending with
  | none => rfl
  | some e => exact toNat_endingCode e

/-- The read status counts at offsets 18 to 27. -/
theorem contextView_counts :
    [18, 20, 22, 24, 26].map (fun i => field (contextView t now c) i 2) =
      [c.counts.stale, c.counts.checkFail, c.counts.zero, c.counts.void, c.counts.mismatch].map (fun x => x % 2 ^ 16) := by
  simp only [contextView, List.append_assoc, List.cons_append, List.nil_append, List.map_cons, List.map_nil, ← leNat_leBytes_two]
  rfl

/-- The deadline at offset 28. -/
theorem contextView_deadline : field (contextView t now c) 28 4 = shownDeadline now c % 2 ^ 32 := by
  simp only [contextView, List.append_assoc, List.cons_append, List.nil_append]
  exact leNat_leBytes 4 _

/-- The marks, bit by bit, from offset 32 on. -/
theorem contextView_marks {i : Nat} (h : i < 256) :
    (byteAt (contextView t now c) (32 + i / 8)).getLsbD (i % 8) = c.marks.getLsbD i := by
  obtain ⟨front, hv, hlen⟩ : ∃ front, contextView t now c = front ++ leBytes 32 c.marks.toNat ∧ front.length = 32 :=
    ⟨_, rfl, by simp⟩
  rw [hv, byteAt, List.getD_append_right _ _ _ _ (by omega), hlen, Nat.add_sub_cancel_left]
  exact getLsbD_byteAt_leBytes c.marks (by omega)

end

end Sys2Proof.Machine

namespace Sys2Proof.Machine

/-- Settles O21, view by view. -/
theorem viewLayouts : Obligations.ViewLayouts := by
  refine ⟨fun s => ?_, fun k r => ?_, fun k s => ?_, fun t now c => ?_, fun l mask => ?_⟩
  · obtain ⟨hturn, hatt, hlt⟩ := bits_of_two (s.laneTurn == .media) s.events.attention
    refine ⟨by simp [engineView], portByte_bits s.front, portByte_bits s.media, ?_, fun hq hr => ?_, fun l => ?_, ?_, hatt, hlt,
      ?_, ?_⟩
    · change (oneByte (randomCode s.random)).toNat = _
      cases s.random <;> rfl
    · obtain ⟨hfiq, hmiq, hdrq, hmoq, hfsq⟩ := hq
      change [(oneByte s.fiq.length).toNat, (oneByte s.miq.length).toNat, (oneByte s.drq.length).toNat,
        (oneByte s.moq.length).toNat, (oneByte s.fsq.length).toNat, (oneByte s.rpq.length).toNat] = _
      rw [toNat_oneByte_of_lt (by omega), toNat_oneByte_of_lt (by omega), toNat_oneByte_of_lt (by omega),
        toNat_oneByte_of_lt (by omega), toNat_oneByte_of_lt (by omega), toNat_oneByte_of_lt (by omega)]
    · refine (laneByte_code s l).trans ?_
      cases s.lanes[l] <;> rfl
    · exact (Bool.eq_iff_iff.mp hturn).trans beq_iff_eq
    · exact leNat_leBytes_of_lt (k := 2) (by have := s.events.flags.isLt; omega)
    · exact leNat_leBytes_of_lt (k := 2) (by have := s.events.mask.isLt; omega)
  · refine ⟨by simp [rangeView], toNat_oneByte_of_lt (by omega), ?_, bits_of_attributeByte .., rfl, leNat_leBytes 5 r.start,
      leNat_leBytes 6 r.length, leNat_leBytes_of_lt (k := 8) r.tweakBase.isLt⟩
    unfold rangeView
    cases r.slot with
    | none => rfl
    | some n => exact toNat_oneByte_of_lt (by omega)
  · refine ⟨by simp [slotView], toNat_oneByte_of_lt (by omega), ?_, leNat_leBytes_of_lt (k := 2) s.slots[k].generation.isLt,
      toNat_oneByte _, ?_, toNat_oneByte _⟩
    · change (oneByte (slotStateCode s.slots[k].state)).toNat = _
      cases s.slots[k].state <;> rfl
    · rw [← referenceCount_eq]
      exact toNat_oneByte_of_lt (referenceCount_lt s k)
  · obtain ⟨htag, hstate, hdir, hformat⟩ := contextView_codes t now c
    obtain ⟨hstart, hcount, htaken, hfin, hjobs⟩ := contextView_numbers t now c
    obtain ⟨hend, hbits, hfail⟩ := contextView_ending t now c
    have hdeadline := contextView_deadline t now c
    refine ⟨contextView_length t now c, htag, hstate, hdir, hformat, hstart, hcount, htaken, hfin, hjobs, hend, hbits, hfail,
      contextView_counts t now c, fun hd => ?_, fun d hd hlt => ?_, fun d hd hge => ?_, fun i => contextView_marks t now c⟩
    · rw [hdeadline, shownDeadline, hd]
      rfl
    · rw [hdeadline, shownDeadline, hd]
      exact congrArg (· % 2 ^ 32) (timeRemaining_ahead hlt)
    · rw [hdeadline, shownDeadline, hd]
      exact congrArg (· % 2 ^ 32) (timeRemaining_passed hge)
  · refine ⟨by simp [limitsView], leNat_leBytes 6 l.ceiling, ?_, leNat_leBytes 2 l.idle, leNat_leBytes 2 l.drain,
      toNat_oneByte _, leNat_leBytes_of_lt (k := 2) (by have := mask.isLt; omega)⟩
    simp only [List.map_cons, List.map_nil, ← toNat_oneByte]
    rfl

end Sys2Proof.Machine
end

section
/-! PROOFS. The clearing of contexts at a link loss, taken apart into single moves, and what every move keeps. -/

namespace Sys2Proof.Machine

/-! ### Moves -/

/-- One move of the clearing that a link loss brings: a context's record changes and the context stays open or closed, the
judged frame leaves the media head, a lane is released, or a context closes, with its COMPLETION only where `report` is
the case, and leaves its drain set. -/
inductive Move (report : Prop) : State → State → Prop
  | record (s : State) (i : Tag) (c : Context) (h : c.state.isOpen = s.contexts[i].state.isOpen) :
    Move report s (putContext i c s)
  | pops (s : State) (h : s.verdict.isSome = true) : Move report s (popIntake .media s)
  | releases (s : State) (l : LaneIx) (j : Job) (h : s.lanes[l].job = some j) : Move report s (s.released l j)
  | closes (s : State) (i : Tag) (c : Context) (q : List Frame) (hc : c.state.isOpen = false)
    (hq : q = s.rpq ∨ (report ∧ s.rpq <+: q)) : Move report s (leaveDrain i { putContext i c s with rpq := q })

/-- A run of moves. -/
abbrev Moves (report : Prop) : State → State → Prop := Relation.ReflTransGen (Move report)

section
variable {report : Prop} {s t : State}

/-- What every move keeps, a run of moves keeps. -/
theorem Moves.keeps {P : State → Prop} (h : ∀ s t, Move report s t → P s → P t) (hm : Moves report s t) (hs : P s) : P t := by
  induction hm with
  | refl => exact hs
  | tail _ hlast ih => exact h _ _ hlast ih

/-- What no move changes, a run of moves does not change. -/
theorem Moves.same {α : Type} (f : State → α) (h : ∀ s t, Move report s t → f t = f s) (hm : Moves report s t) : f t = f s :=
  Moves.keeps (P := fun x => f x = f s) (fun _ _ hmove hx => (h _ _ hmove).trans hx) hm rfl

theorem Moves.foldl {α : Type} {P : State → Prop} {f : State → α → State} (hP : ∀ s t, Moves report s t → P s → P t)
    (h : ∀ s a, P s → Moves report s (f s a)) (l : List α) (s : State) (hs : P s) : Moves report s (l.foldl f s) := by
  induction l generalizing s with
  | nil => exact .refl
  | cons a l ih => exact (h s a hs).trans (ih _ (hP _ _ (h s a hs) hs))

theorem moves_freeContext (i : Tag) (s : State) : Moves report s (freeContext i s) :=
  .single (.closes s i Context.free s.rpq rfl (.inl rfl))

theorem moves_enterReporting (hr : report) (i : Tag) (s : State) : Moves report s (enterReporting i s) :=
  .single (.closes s i _ _ rfl (.inr ⟨hr, List.prefix_append ..⟩))

theorem moves_leaveEnding (i : Tag) (s : State) (h : report ∨ s.contexts[i].suppressed = true) :
    Moves report s (leaveEnding i s) := by
  unfold leaveEnding
  by_cases hc : s.contexts[i].state = .ending ∧ s.contexts[i].jobs = 0
  · rw [if_pos hc]
    by_cases hs : s.contexts[i].suppressed = true
    · rw [if_pos hs]
      exact moves_freeContext i s
    · rw [if_neg hs]
      exact moves_enterReporting (h.resolve_right hs) i s
  · rw [if_neg hc]

theorem released_suppressed (l : LaneIx) (j : Job) (s : State) (i : Tag) :
    (s.released l j).contexts[i].suppressed = s.contexts[i].suppressed := by
  by_cases h : j.tag = i
  · subst h
    change (s.contexts.set j.tag _)[j.tag].suppressed = _
    rw [set_get_self]
  · rw [released_contexts_ne l j s h]

theorem unread_eq_foldl (i : Tag) (s : State) : s.unread i = allLanes.foldl (unreadLane i) s := rfl

theorem moves_unreadLane (i : Tag) (s : State) (l : LaneIx) : Moves report s (unreadLane i s l) := by
  rcases unreadLane_cases i s l with ⟨-, j, hl, -, he⟩ | ⟨-, he⟩ <;> rw [he]
  exact .single (.releases s l j hl)

theorem moves_unread (i : Tag) (s : State) : Moves report s (s.unread i) :=
  Moves.foldl (P := fun _ => True) (fun _ _ _ => id) (fun s l _ => moves_unreadLane i s l) allLanes s trivial

theorem unread_suppressed (i : Tag) (s : State) (t : Tag) :
    (s.unread i).contexts[t].suppressed = s.contexts[t].suppressed := by
  refine foldl_keeps (g := fun x : State => x.contexts[t].suppressed) (f := unreadLane i) (fun x l => ?_) allLanes s
  rcases unreadLane_cases i x l with ⟨-, j, -, -, he⟩ | ⟨-, he⟩ <;> rw [he]
  exact released_suppressed l j x t

theorem moves_discardMediaHead (i : Tag) (s : State) : Moves report s (discardMediaHead i s) := by
  unfold discardMediaHead
  by_cases h : (s.verdict.isSome && headIsOf i false s.miq) = true
  · rw [if_pos h]
    exact .single (.pops s (Bool.and_eq_true _ _ ▸ h).1)
  · rw [if_neg h]

/-- With the front queue empty, nothing leaves the front head. -/
theorem discardFrontHead_empty (i : Tag) (h : s.fiq = []) : discardFrontHead i s = s :=
  discardFrontHead_none (by rw [h]; exact nofun)

theorem isOpen_of_running {x : ContextState} (h : x.running = true) : x.isOpen = true := by
  revert h
  cases x <;> decide

theorem moves_enterEnding {i : Tag} {c : Context} (hf : s.fiq = []) (ho : s.contexts[i].state.isOpen = true)
    (h : report ∨ c.suppressed = true) : Moves report s (enterEnding i c s) := by
  rw [enterEnding_eq, discardFrontHead_empty i (by exact hf)]
  refine Relation.ReflTransGen.trans (.single (.record s i { c with state := .ending, deadline := none } ho.symm))
    (Relation.ReflTransGen.trans (moves_discardMediaHead i _) (Relation.ReflTransGen.trans (moves_unread i _)
      (moves_leaveEnding i _ (h.imp_right fun hs => ?_))))
  rw [unread_suppressed, (discardMediaHead_core i _).contexts, putContext_contexts, set_get_self]
  exact hs

theorem moves_frontLossContext (i : Tag) (hf : s.fiq = []) : Moves report s (frontLossContext i s) := by
  unfold frontLossContext
  dsimp only
  split
  · exact .refl
  · next hs => exact moves_enterEnding hf (by rw [hs]; rfl) (.inr rfl)
  · next hs => exact moves_enterEnding hf (by rw [hs]; rfl) (.inr rfl)
  · refine Relation.ReflTransGen.trans (.single (.record s i { s.contexts[i] with suppressed := true } rfl))
      (moves_leaveEnding i _ (.inr ?_))
    rw [putContext_contexts, set_get_self]
  · exact moves_freeContext i s

theorem moves_endTransfer (hr : report) (i : Tag) (e : Ending) (fail : Option Nat) (hf : s.fiq = []) :
    Moves report s (endTransfer i e fail s) := by
  unfold endTransfer
  by_cases h : s.contexts[i].state.running = true
  · rw [if_pos h]
    exact moves_enterEnding hf (isOpen_of_running h) (.inl hr)
  · rw [if_neg h]

theorem moves_discardHeldWrite (hr : report) (l : LaneIx) (s : State) : Moves report s (discardHeldWrite l s) := by
  unfold discardHeldWrite
  split
  · next j _ hl =>
    have hrelease : Moves report s (releaseLane l j s) := .single (.releases s l j (by rw [hl]; rfl))
    exact hrelease.trans (moves_leaveEnding j.tag _ (.inl hr))
  · exact .refl

/-! ### What every move keeps -/

theorem Move.fiq (h : Move report s t) : t.fiq = s.fiq := by
  cases h with
  | record | releases => rfl
  | pops => rfl
  | closes i c q => exact (leaveDrain_heads i _).1

theorem Move.front (h : Move report s t) : t.front = s.front := by
  cases h with
  | record | releases => rfl
  | pops => rfl
  | closes i c q => exact (leaveDrain_ports i _).front

theorem Moves.fiq (h : Moves report s t) : t.fiq = s.fiq := h.same State.fiq fun _ _ => Move.fiq

theorem Moves.front (h : Moves report s t) : t.front = s.front := h.same State.front fun _ _ => Move.front

/-- Without a verdict nothing leaves the media queue. -/
def Unjudged (m : Port) (q : List Queued) (s : State) : Prop := s.verdict = none ∧ s.miq = q ∧ s.media = m

theorem Moves.unjudged (h : Moves report s t) {m : Port} {q : List Queued} (hs : Unjudged m q s) : Unjudged m q t := by
  refine h.keeps (fun s t hmove hs => ?_) hs
  obtain ⟨hv, hq, hm⟩ := hs
  cases hmove with
  | record | releases => exact ⟨hv, hq, hm⟩
  | pops h => rw [hv] at h; cases h
  | closes i c q =>
    obtain ⟨-, hmiq, hverdict, -⟩ := leaveDrain_heads i { putContext i c s with rpq := q }
    exact ⟨hverdict.trans hv, hmiq.trans hq, (leaveDrain_ports i _).media.trans hm⟩

theorem leaveDrain_drainedSlot {k : SlotIx} (i : Tag) (h : drainedSlot s ≠ some k) : drainedSlot (leaveDrain i s) ≠ some k := by
  rcases drainedSlot_leaveDrain i s with he | he <;> rw [he]
  · exact h
  · exact nofun

/-- A slot that is not draining keeps all but its pin count. -/
def SlotStays (k : SlotIx) (r : SlotRecord) (s : State) : Prop :=
  drainedSlot s ≠ some k ∧ { s.slots[k] with pins := r.pins } = r

theorem Moves.slotStays (h : Moves report s t) {k : SlotIx} {r : SlotRecord} (hs : SlotStays k r s) : SlotStays k r t := by
  refine h.keeps (fun s t hmove hs => ?_) hs
  obtain ⟨hd, hr⟩ := hs
  cases hmove with
  | record => exact ⟨hd, hr⟩
  | pops =>
    have hcore := popIntake_core .media s
    exact ⟨(drainedSlot_congr hcore.du).symm ▸ hd, by rw [hcore.slots]; exact hr⟩
  | releases l j =>
    obtain ⟨hdrain, hslot⟩ := released_slots l j s k
    exact ⟨hdrain ▸ hd, by rw [hslot]; exact hr⟩
  | closes i c q =>
    refine ⟨leaveDrain_drainedSlot i hd, ?_⟩
    rw [leaveDrain_slots i (by exact hd)]
    exact hr

/-! ### The Report Queue and the Directive Unit -/

theorem completeDrain_cases (k : SlotIx) (goal : DrainGoal) (s : State) :
    (∃ r, completeDrain k goal s = answer r [] (emptySlot k s)) ∨
    ∃ n g, completeDrain k goal s = { fillingSlot k s with du := some ⟨.filling k n g, silentUnit s⟩ } := by
  unfold completeDrain
  split
  · exact .inl ⟨_, rfl⟩
  · next n g =>
    by_cases h : s.random = .failed
    · rw [if_pos h]
      exact .inl ⟨_, rfl⟩
    · rw [if_neg h]
      exact .inr ⟨n, g, rfl⟩

theorem answer_rpq_grows (r : Result) (data : Bytes) (s : State) : s.rpq <+: (answer r data s).rpq := by
  unfold answer
  split
  · exact List.prefix_refl _
  · by_cases h : silentUnit s = true
    · rw [if_pos h]
    · rw [if_neg h]
      exact List.prefix_append ..

theorem leaveDrain_rpq_grows (i : Tag) (s : State) : s.rpq <+: (leaveDrain i s).rpq := by
  rcases leaveDrain_cases i s with he | ⟨k, goal, timer, silent, r, -, he | he⟩ <;> rw [he]
  · exact List.prefix_refl _
  · rcases completeDrain_cases k goal (putSlot k r s) with ⟨x, hx⟩ | ⟨n, g, hx⟩ <;> rw [hx]
    · exact answer_rpq_grows x [] (emptySlot k (putSlot k r s))
    · exact List.prefix_refl _

/-- In the open or not, the Report Queue only grows. -/
theorem Moves.rpq_grows (h : Moves report s t) : s.rpq <+: t.rpq := by
  refine h.keeps (P := fun x => s.rpq <+: x.rpq) (fun x y hmove hx => hx.trans ?_) (List.prefix_refl _)
  cases hmove with
  | record | releases => exact List.prefix_refl _
  | pops => rw [(popIntake_core .media x).rpq]
  | closes i c q hc hq =>
    have hstep : x.rpq <+: q := by
      rcases hq with rfl | ⟨-, hq⟩
      · exact List.prefix_refl _
      · exact hq
    exact hstep.trans (leaveDrain_rpq_grows i { putContext i c x with rpq := q })

/-- The Directive Unit runs nothing, or in silence with the entry `e` alone in its queue; with no entry, too. -/
structure Silent (q : List DrqEntry) (s : State) : Prop where
  entries : ∀ d ∈ q, d.executed = false
  length : q.length ≤ 1
  unit : (s.drq = q ∧ ∃ task, s.du = some ⟨task, true⟩) ∨ (s.drq = [] ∧ s.du = none)

/-- A silent directive that ends leaves nothing behind. -/
theorem Silent.answer {q : List DrqEntry} (h : Silent q s) (r : Result) (data : Bytes) :
    Silent q (answer r data s) ∧ (Machine.answer r data s).rpq = s.rpq := by
  obtain ⟨hentries, hlen, ⟨hq, task, hdu⟩ | ⟨hq, hdu⟩⟩ := h
  · have hsilent : silentUnit s = true := silentUnit_doing hdu
    match q, hentries, hlen with
    | [], hentries, hlen =>
      have he : Machine.answer r data s = { s with du := none } := by
        unfold Machine.answer
        rw [hq]
        rfl
      rw [he]
      exact ⟨⟨hentries, hlen, .inr ⟨hq, rfl⟩⟩, rfl⟩
    | [e], hentries, hlen =>
      have hn : Next [] e [] s := ⟨hq, by simp, hentries e (by simp)⟩
      rw [answer_silent hn hsilent]
      exact ⟨⟨hentries, hlen, .inr ⟨rfl, rfl⟩⟩, rfl⟩
  · have he : Machine.answer r data s = { s with du := none } := by
      unfold Machine.answer
      rw [hq]
      rfl
    rw [he]
    exact ⟨⟨hentries, hlen, .inr ⟨hq, rfl⟩⟩, rfl⟩

theorem Silent.congr {q : List DrqEntry} (h : Silent q s) (hq : t.drq = s.drq) (hdu : t.du = s.du) : Silent q t :=
  ⟨h.entries, h.length, by rw [hq, hdu]; exact h.unit⟩

theorem Silent.leaveDrain {q : List DrqEntry} (h : Silent q s) (i : Tag) :
    Silent q (leaveDrain i s) ∧ (Machine.leaveDrain i s).rpq = s.rpq := by
  rcases leaveDrain_cases i s with he | ⟨k, goal, timer, silent, r, hdu, he | he⟩ <;> rw [he]
  · exact ⟨h, rfl⟩
  · exact ⟨h.congr rfl rfl, rfl⟩
  · have hput : Silent q (putSlot k r s) := h.congr rfl rfl
    rcases completeDrain_cases k goal (putSlot k r s) with ⟨x, hx⟩ | ⟨n, g, hx⟩ <;> rw [hx]
    · have hempty : Silent q (emptySlot k (putSlot k r s)) := hput.congr rfl rfl
      exact hempty.answer x []
    · rcases hput.unit with ⟨hq, task, hrun⟩ | ⟨-, hrun⟩
      · exact ⟨⟨h.entries, h.length, .inl ⟨hq, _, by rw [silentUnit_doing hrun]⟩⟩, rfl⟩
      · exact absurd (hrun.symm.trans (show (putSlot k r s).du = _ from hdu)) nofun

/-- In silence the Report Queue stays as it is (R98). -/
theorem Moves.silent (h : Moves False s t) {q : List DrqEntry} {reports : List Frame} (hs : Silent q s ∧ s.rpq = reports) :
    Silent q t ∧ t.rpq = reports := by
  refine h.keeps (P := fun x => Silent q x ∧ x.rpq = reports) (fun x y hmove hx => ?_) hs
  obtain ⟨hx, hr⟩ := hx
  cases hmove with
  | record | releases => exact ⟨hx.congr rfl rfl, hr⟩
  | pops =>
    have hcore := popIntake_core .media x
    exact ⟨hx.congr hcore.drq hcore.du, hcore.rpq.trans hr⟩
  | closes i c p hc hp =>
    obtain rfl : p = x.rpq := hp.resolve_right fun hf => hf.1
    have hput : Silent q { putContext i c x with rpq := x.rpq } := hx.congr rfl rfl
    exact ⟨(hput.leaveDrain i).1, (hput.leaveDrain i).2.trans hr⟩

end

end Sys2Proof.Machine
end

section
/-! PROOFS. Lanes, pin counts and the drain under the moves of a link loss (R56, R58 to R60, R109). -/

namespace Sys2Proof.Machine

section
variable {report : Prop} {s t : State}

/-! ### Lanes and pin counts -/

/-- The lanes whose job, which took its key from a slot, has gone between two states. -/
def takenFrom (k : SlotIx) (s t : State) : Finset LaneIx :=
  Finset.univ.filter fun l => (s.lanes[l].job.any (fun j => j.slot == k) && t.lanes[l].job.isNone) = true

theorem mem_takenFrom {k : SlotIx} {l : LaneIx} :
    l ∈ takenFrom k s t ↔ (∃ j, s.lanes[l].job = some j ∧ j.slot = k) ∧ t.lanes[l].job = none := by
  simp [-Fin.getElem_fin, takenFrom, Option.any_eq_true]

/-- Lanes stay or are released, and each release lowers the pin count of its job's slot (R109). -/
structure Emptied (s t : State) : Prop where
  lanes : ∀ l : LaneIx, t.lanes[l] = s.lanes[l] ∨ t.lanes[l] = .idle
  pins : ∀ k : SlotIx, t.slots[k].pins = s.slots[k].pins - (takenFrom k s t).card
  moqHold : t.moqHold.Sublist s.moqHold

theorem Emptied.refl (s : State) : Emptied s s := by
  refine ⟨fun _ => .inl rfl, fun k => ?_, List.Sublist.refl _⟩
  have hnone : takenFrom k s s = ∅ := by
    ext l
    rw [mem_takenFrom]
    simp only [Finset.notMem_empty, iff_false]
    rintro ⟨⟨j, hj, -⟩, hn⟩
    rw [hj] at hn
    cases hn
  rw [hnone, Finset.card_empty, Nat.sub_zero]

theorem takenFrom_congr {x y : State} (h : y.lanes = x.lanes) (k : SlotIx) : takenFrom k s y = takenFrom k s x := by
  unfold takenFrom
  rw [h]

theorem Emptied.congr {x y : State} (h : Emptied s x) (hl : y.lanes = x.lanes)
    (hp : ∀ k : SlotIx, y.slots[k].pins = x.slots[k].pins) (hm : y.moqHold = x.moqHold) : Emptied s y :=
  ⟨fun l => by rw [hl]; exact h.lanes l, fun k => by rw [hp, h.pins, takenFrom_congr hl], hm ▸ h.moqHold⟩

theorem Emptied.released {x : State} (h : Emptied s x) {l : LaneIx} {j : Job} (hl : x.lanes[l].job = some j) :
    Emptied s (x.released l j) := by
  have hlane (i : LaneIx) : (x.released l j).lanes[i] = if l = i then .idle else x.lanes[i] := set_get ..
  have hbase : s.lanes[l].job = some j := by
    rcases h.lanes l with he | he <;> rw [he] at hl
    · exact hl
    · cases hl
  refine ⟨fun i => ?_, fun k => ?_, (List.erase_sublist).trans h.moqHold⟩
  · rw [hlane]
    by_cases hi : l = i
    · exact .inr (if_pos hi)
    · rw [if_neg hi]
      exact h.lanes i
  · rw [(released_slots l j x k).2]
    change x.slots[k].pins - (if j.slot = k then 1 else 0) = _
    rw [h.pins]
    by_cases hk : j.slot = k
    · have hnot : l ∉ takenFrom k s x := fun hmem => by
        rw [(mem_takenFrom.mp hmem).2] at hl
        cases hl
      have hset : takenFrom k s (x.released l j) = insert l (takenFrom k s x) := by
        ext i
        rw [Finset.mem_insert, mem_takenFrom, mem_takenFrom, hlane]
        by_cases hi : l = i
        · subst hi
          rw [if_pos rfl]
          exact iff_of_true ⟨⟨j, hbase, hk⟩, rfl⟩ (.inl rfl)
        · rw [if_neg hi]
          simp only [Ne.symm hi, false_or]
      rw [if_pos hk, hset, Finset.card_insert_of_notMem hnot, Nat.sub_sub]
    · have hset : takenFrom k s (x.released l j) = takenFrom k s x := by
        ext i
        rw [mem_takenFrom, mem_takenFrom, hlane]
        by_cases hi : l = i
        · subst hi
          simp [-Fin.getElem_fin, hbase, hk]
        · rw [if_neg hi]
      rw [if_neg hk, hset, Nat.sub_zero]

theorem Moves.emptied (h : Moves report s t) : Emptied s t := by
  refine h.keeps (P := Emptied s) (fun x y hmove hx => ?_) (.refl s)
  cases hmove with
  | record => exact hx.congr rfl (fun _ => rfl) rfl
  | pops =>
    have hcore := popIntake_core .media x
    exact hx.congr hcore.lanes (fun k => by rw [hcore.slots]) hcore.moqHold
  | releases l j hl => exact hx.released hl
  | closes i c q => exact hx.congr (leaveDrain_lanes i _) (leaveDrain_pins i _) (leaveDrain_moqHold i _)

/-! ### The drain that runs -/

/-- A slot's record with another pin count. -/
def SlotRecord.withPins (n : Nat) (r : SlotRecord) : SlotRecord := { r with pins := n }

/-- A slot's record without keys and drain set (R58, R59). -/
def SlotRecord.bare (y : SlotState) (r : SlotRecord) : SlotRecord :=
  { r with state := y, dataKey := 0, tweakKey := 0, drainSet := [] }

/-- What the slot, the Directive Unit and the Directive Queue are, but for the slot's pin count. -/
def UnitAt (k : SlotIx) (r : SlotRecord) (du : Option Executing) (q : List DrqEntry) (x : State) : Prop :=
  x.slots[k] = r.withPins x.slots[k].pins ∧ x.du = du ∧ x.drq = q

/-- Where the drain of a slot stands (R56, R58 to R60): the contexts of its drain set that are still open are left in it and
the directive goes on, or none is left and the drain is complete. `base` is the slot's record when the drain set was
whole, `going` and `ended` the Directive Queue while the directive goes on and when it has ended. -/
structure DrainAt (k : SlotIx) (goal : DrainGoal) (timer : Option Time) (silent : Bool) (going ended : List DrqEntry)
    (base : SlotRecord) (x : State) : Prop where
  goes : base.drainSet.filter (fun i => x.contexts[i].state.isOpen) ≠ [] →
    UnitAt k { base with drainSet := base.drainSet.filter (fun i => x.contexts[i].state.isOpen) }
      (some ⟨.draining k goal timer, silent⟩) going x
  done : base.drainSet.filter (fun i => x.contexts[i].state.isOpen) = [] →
    (goal = .discard → UnitAt k (base.bare .empty) none ended x) ∧
    ∀ n g, goal = .rekey n g →
      (x.random ≠ .failed → UnitAt k (base.bare .filling) (some ⟨.filling k n g, silent⟩) going x) ∧
      (x.random = .failed → UnitAt k (base.bare .empty) none ended x)

section
variable {k : SlotIx} {goal : DrainGoal} {timer : Option Time} {silent : Bool} {going ended : List DrqEntry} {base : SlotRecord}

theorem open_congr {x y : State} (h : ∀ i : Tag, y.contexts[i].state.isOpen = x.contexts[i].state.isOpen) (l : List Tag) :
    l.filter (fun i => y.contexts[i].state.isOpen) = l.filter (fun i => x.contexts[i].state.isOpen) := by
  congr 1
  exact funext h

/-- Changes that leave every context open or closed, the slot but for its pin count, the unit and the source do not matter
to the drain. -/
theorem DrainAt.congr {x y : State} (h : DrainAt k goal timer silent going ended base x)
    (ho : ∀ i : Tag, y.contexts[i].state.isOpen = x.contexts[i].state.isOpen)
    (hs : y.slots[k] = { x.slots[k] with pins := y.slots[k].pins }) (hdu : y.du = x.du) (hq : y.drq = x.drq)
    (hr : y.random = x.random) : DrainAt k goal timer silent going ended base y := by
  have hunit {r : SlotRecord} {du : Option Executing} {q : List DrqEntry} (hx : UnitAt k r du q x) : UnitAt k r du q y := by
    obtain ⟨hslot, hxdu, hxq⟩ := hx
    refine ⟨?_, hdu.trans hxdu, hq.trans hxq⟩
    rw [hs, hslot]
    rfl
  refine ⟨fun hl => ?_, fun hl => ?_⟩
  · rw [open_congr ho] at hl ⊢
    exact hunit (h.goes hl)
  · rw [open_congr ho] at hl
    obtain ⟨hdiscard, hrekey⟩ := h.done hl
    exact ⟨fun hg => hunit (hdiscard hg), fun n g hg => ⟨fun hne => hunit ((hrekey n g hg).1 (hr ▸ hne)), fun hf =>
      hunit ((hrekey n g hg).2 (hr ▸ hf))⟩⟩

/-- Once the drain is complete the unit drains no slot. -/
theorem DrainAt.complete {x : State} (h : DrainAt k goal timer silent going ended base x)
    (hl : base.drainSet.filter (fun i => x.contexts[i].state.isOpen) = []) : drainedSlot x = none := by
  obtain ⟨hdiscard, hrekey⟩ := h.done hl
  have hidle {r : SlotRecord} {q : List DrqEntry} (hx : UnitAt k r none q x) : drainedSlot x = none :=
    (idle_unit hx.2.1).2
  cases hg : goal with
  | discard => exact hidle (hdiscard hg)
  | rekey n g =>
    by_cases hf : x.random = .failed
    · exact hidle ((hrekey n g hg).2 hf)
    · unfold drainedSlot
      rw [((hrekey n g hg).1 hf).2.1]

/-- A context that is closed now, and was open or not before, is left out of the contexts that are left. -/
theorem open_closed {x y : State} {i : Tag} (ho : ∀ j : Tag, j ≠ i → y.contexts[j] = x.contexts[j])
    (hc : y.contexts[i].state.isOpen = false) (l : List Tag) :
    l.filter (fun j => y.contexts[j].state.isOpen) = (l.filter (fun j => x.contexts[j].state.isOpen)).filter (fun j => j ≠ i) := by
  rw [List.filter_filter]
  congr 1
  funext j
  by_cases hj : j = i
  · subst hj
    simp [-Fin.getElem_fin, hc]
  · simp [-Fin.getElem_fin, hj, ho j hj]

/-- The Directive Queue while the directive that drains runs, and when it has ended: answered, or in silence freed. -/
structure QueueEnds (silent : Bool) (going ended : List DrqEntry) : Prop where
  split : ∃ done e rest, going = done ++ e :: rest ∧ (∀ d ∈ done, d.executed = true) ∧ e.executed = false ∧
    ended = if silent then done ++ rest else done ++ { e with executed := true } :: rest

/-- The last context of a drain set leaves it (R58, R59). -/
theorem DrainAt.completes {y : State} {i : Tag} (hends : QueueEnds silent going ended)
    (hdu : y.du = some ⟨.draining k goal timer, silent⟩) (hq : y.drq = going)
    (hs : y.slots[k] = { base with pins := y.slots[k].pins, drainSet := y.slots[k].drainSet }) (hi : i ∈ y.slots[k].drainSet)
    (hleft : y.slots[k].drainSet.filter (fun j => j ≠ i) = [])
    (hnone : base.drainSet.filter (fun j => y.contexts[j].state.isOpen) = []) :
    DrainAt k goal timer silent going ended base (leaveDrain i y) := by
  obtain ⟨done, e, rest, hgoing, hdone, he, hended⟩ := hends.split
  have hn : Next done e rest y := ⟨hq.trans hgoing, hdone, he⟩
  have hbare (x : SlotState) : (bareSlot k x y).slots[k] = (base.bare x).withPins (bareSlot k x y).slots[k].pins := by
    unfold bareSlot
    dsimp only
    rw [set_get_self, hs]
    rfl
  have hconcluded (r : Result) :
      UnitAt k (base.bare .empty) none ended ((bareSlot k .empty y).concluded silent r [] done e rest) := by
    rw [hended]
    cases silent <;> exact ⟨hbare .empty, rfl, rfl⟩
  have hrandom : (leaveDrain i y).random = y.random := (leaveDrain_calm i y).random
  refine ⟨fun hl => absurd ((open_congr (fun j => by rw [leaveDrain_contexts]) _).trans hnone) hl, fun _ => ⟨fun hg => ?_,
    fun n g hg => ⟨fun hne => ?_, fun hf => ?_⟩⟩⟩
  · rw [leaveDrain_discard hdu hi hleft hn hg]
    exact hconcluded .ok
  · rw [leaveDrain_rekey hdu hi hleft hg (hrandom ▸ hne)]
    exact ⟨hbare .filling, rfl, hq⟩
  · rw [leaveDrain_failed hdu hi hleft hn hg (hrandom ▸ hf)]
    exact hconcluded .randomFailed

/-- A context closes and leaves the drain set (R56). -/
theorem DrainAt.closes {x y : State} {i : Tag} (hends : QueueEnds silent going ended)
    (h : DrainAt k goal timer silent going ended base x) (ho : ∀ j : Tag, j ≠ i → y.contexts[j] = x.contexts[j])
    (hc : y.contexts[i].state.isOpen = false) (hs : y.slots = x.slots) (hdu : y.du = x.du) (hq : y.drq = x.drq)
    (hr : y.random = x.random) : DrainAt k goal timer silent going ended base (leaveDrain i y) := by
  have hfilter := open_closed ho hc base.drainSet
  by_cases hx : base.drainSet.filter (fun j => x.contexts[j].state.isOpen) = []
  · have hnone : base.drainSet.filter (fun j => y.contexts[j].state.isOpen) = [] := by rw [hfilter, hx]; rfl
    have hidle : drainedSlot y = none := (drainedSlot_congr hdu).trans (h.complete hx)
    obtain ⟨-, hdone⟩ := h
    rw [leaveDrain_undrained i hidle]
    refine ⟨fun hl => absurd hnone hl, fun _ => ?_⟩
    obtain ⟨hdiscard, hrekey⟩ := hdone hx
    have hunit {r : SlotRecord} {du : Option Executing} {q : List DrqEntry} (hx : UnitAt k r du q x) : UnitAt k r du q y := by
      unfold UnitAt
      rw [hs, hdu, hq]
      exact hx
    exact ⟨fun hg => hunit (hdiscard hg), fun n g hg => ⟨fun hne => hunit ((hrekey n g hg).1 (hr ▸ hne)), fun hf =>
      hunit ((hrekey n g hg).2 (hr ▸ hf))⟩⟩
  · obtain ⟨hslot, hxdu, hxq⟩ := h.goes hx
    have hyslot : y.slots[k] = { base with
        pins := y.slots[k].pins, drainSet := base.drainSet.filter (fun j => x.contexts[j].state.isOpen) } := by
      rw [hs]
      exact hslot
    have hset : y.slots[k].drainSet = base.drainSet.filter (fun j => x.contexts[j].state.isOpen) := by rw [hyslot]
    have hydu := hdu.trans hxdu
    by_cases hi : i ∈ y.slots[k].drainSet
    · by_cases hleft : y.slots[k].drainSet.filter (fun j => j ≠ i) = []
      · exact .completes hends hydu (hq.trans hxq) (hyslot.trans (by rw [hset])) hi hleft (by rw [hfilter, ← hset, hleft])
      · rw [leaveDrain_inside hydu hi, if_neg hleft]
        have hnew : (putSlot k { y.slots[k] with drainSet := y.slots[k].drainSet.filter (fun j => j ≠ i) } y).slots[k] =
            { y.slots[k] with drainSet := y.slots[k].drainSet.filter (fun j => j ≠ i) } := set_get_self ..
        refine ⟨fun _ => ⟨?_, hydu, hq.trans hxq⟩, fun hl => absurd ?_ hleft⟩
        · rw [hnew]
          change _ = ({ base with pins := y.slots[k].pins, drainSet := base.drainSet.filter (fun j => y.contexts[j].state.isOpen) } : SlotRecord)
          rw [hfilter, ← hset]
          nth_rewrite 1 [hyslot]
          rfl
        · change base.drainSet.filter (fun j => y.contexts[j].state.isOpen) = [] at hl
          rw [hset, ← hfilter, hl]
    · have hsame : base.drainSet.filter (fun j => y.contexts[j].state.isOpen) =
          base.drainSet.filter (fun j => x.contexts[j].state.isOpen) := by
        rw [hfilter, ← hset]
        exact List.filter_eq_self.mpr fun j hj => decide_eq_true fun (e : j = i) => hi (e ▸ hj)
      have hout : leaveDrain i y = y := leaveDrain_outside fun k' goal' timer' silent' hdu' => by
        obtain rfl : k = k' := by
          have := Option.some.inj (hydu.symm.trans hdu')
          injection this with htask
          injection htask
        exact hi
      rw [hout]
      refine ⟨fun _ => ?_, fun hl => absurd (hsame.symm.trans hl) hx⟩
      rw [hsame]
      exact ⟨hyslot, hydu, hq.trans hxq⟩

theorem Moves.drainAt (hm : Moves report s t) (hends : QueueEnds silent going ended)
    (h : DrainAt k goal timer silent going ended base s) : DrainAt k goal timer silent going ended base t := by
  refine hm.keeps (fun x y hmove hx => ?_) h
  cases hmove with
  | record i c ho =>
    refine hx.congr (fun j => ?_) rfl rfl rfl rfl
    rw [putContext_contexts, set_get]
    by_cases hj : i = j
    · subst hj
      rw [if_pos rfl, ho]
    · rw [if_neg hj]
  | pops =>
    have hcore := popIntake_core .media x
    exact hx.congr (fun j => by rw [hcore.contexts]) (by rw [hcore.slots]) hcore.du hcore.drq (popIntake_calm .media x).random
  | releases l j =>
    refine hx.congr (fun i => by rw [released_state]) ?_ rfl rfl rfl
    rw [(released_slots l j x k).2]
  | closes i c q hc =>
    refine DrainAt.closes (y := { putContext i c x with rpq := q }) hends hx (fun j hj => set_get_ne _ _ hj.symm) ?_ rfl rfl rfl rfl
    change (x.contexts.set i c)[i].state.isOpen = false
    rw [set_get_self, hc]

end

end

end Sys2Proof.Machine
end

section
/-! PROOFS. What a link loss leaves of every context and lane (R79, R84, R85, R109, R111, R112). -/

namespace Sys2Proof.Machine

/-! ### One context that ends -/

/-- The number of READ outputs that lanes hold for a tag. -/
def heldCount (i : Tag) (s : State) : Nat := (allLanes.filter (fun l => heldRead s.lanes[l] = some i)).length

/-- A context's record after it has left ENDING, if it leaves (R80). -/
def Context.left (c : Context) : Context :=
  if c.state = .ending ∧ c.jobs = 0 then
    if c.suppressed then Context.free else { c with state := .reporting, deadline := none }
  else c

section
variable {i : Tag} {s : State}

theorem leaveEnding_self (i : Tag) (s : State) : (leaveEnding i s).contexts[i] = s.contexts[i].left := by
  unfold leaveEnding Context.left
  by_cases hc : s.contexts[i].state = .ending ∧ s.contexts[i].jobs = 0
  · rw [if_pos hc, if_pos hc]
    by_cases hs : s.contexts[i].suppressed = true
    · rw [if_pos hs, if_pos hs, freeContext_contexts, set_get_self]
    · rw [if_neg hs, if_neg hs, enterReporting_contexts, set_get_self]
  · rw [if_neg hc, if_neg hc]

/-- The jobs in flight fall by the READ outputs that are released (R109). -/
theorem unread_self (i : Tag) (s : State) :
    (s.unread i).contexts[i] = { s.contexts[i] with jobs := s.contexts[i].jobs - heldCount i s } := by
  have all (ls : List LaneIx) (hd : ls.Nodup) : ∀ x : State, (ls.foldl (unreadLane i) x).contexts[i] =
      { x.contexts[i] with
        jobs := x.contexts[i].jobs - (ls.filter (fun l => heldRead x.lanes[l] = some i)).length } := by
    induction ls with
    | nil => exact fun _ => rfl
    | cons l ls ih =>
      intro x
      obtain ⟨hl, hd⟩ := List.nodup_cons.mp hd
      have hrest : ls.filter (fun n => heldRead (unreadLane i x l).lanes[n] = some i) =
          ls.filter (fun n => heldRead x.lanes[n] = some i) :=
        List.filter_congr fun n hn => by
          have hne : ¬ (n = l ∧ heldRead x.lanes[n] = some i) := fun h => hl (h.1 ▸ hn)
          rw [unreadLane_lanes, if_neg hne]
      rw [List.foldl_cons, ih hd, hrest]
      rcases unreadLane_cases i x l with ⟨hh, j, -, rfl, he⟩ | ⟨hh, he⟩ <;> rw [he]
      · rw [List.filter_cons_of_pos (by exact decide_eq_true hh), List.length_cons]
        change ({ (x.contexts.set j.tag _)[j.tag] with jobs := (x.contexts.set j.tag _)[j.tag].jobs - _ } : Context) = _
        rw [set_get_self]
        simp only [Nat.sub_sub, Nat.add_comm]
      · rw [List.filter_cons_of_neg (by exact fun h => hh (of_decide_eq_true h))]
  exact all allLanes (List.nodup_finRange 4) s

theorem heldCount_congr {s t : State} (h : t.lanes = s.lanes) (i : Tag) : heldCount i t = heldCount i s := by
  unfold heldCount
  rw [h]

theorem enterEnding_self (i : Tag) (c : Context) (s : State) :
    (enterEnding i c s).contexts[i] =
      Context.left { c with state := .ending, deadline := none, jobs := c.jobs - heldCount i s } := by
  have hcore := discardHeads_core i (putContext i { c with state := .ending, deadline := none } s)
  rw [enterEnding_eq, leaveEnding_self, unread_self, heldCount_congr hcore.lanes, hcore.contexts, putContext_contexts,
    set_get_self]
  rfl

theorem enterEnding_lanes (i : Tag) (c : Context) (s : State) (l : LaneIx) :
    (enterEnding i c s).lanes[l] = if heldRead s.lanes[l] = some i then .idle else s.lanes[l] := by
  have hcore := discardHeads_core i (putContext i { c with state := .ending, deadline := none } s)
  rw [enterEnding_eq, leaveEnding_lanes, unread_lanes, hcore.lanes]
  rfl

end

/-! ### Every context in turn -/

/-- An operation treats one context: it makes the record what `g` says of the old record and the READ outputs held for it,
and releases those where the context is ACTIVE or FLUSHING. -/
structure Treats (f : State → Tag → State) (g : Context → Nat → Context) : Prop where
  other : ∀ (s : State) {t i : Tag}, t ≠ i → (f s t).contexts[i] = s.contexts[i]
  own : ∀ (s : State) (t : Tag), (f s t).contexts[t] = g s.contexts[t] (heldCount t s)
  lanes : ∀ (s : State) (t : Tag) (l : LaneIx),
    (f s t).lanes[l] = if s.contexts[t].state.running = true ∧ heldRead s.lanes[l] = some t then .idle else s.lanes[l]

section
variable {f : State → Tag → State} {g : Context → Nat → Context}

/-- The READ outputs held for one tag do not matter to another. -/
theorem Treats.heldRead_other (h : Treats f g) (s : State) {t i : Tag} (hi : t ≠ i) (l : LaneIx) :
    heldRead (f s t).lanes[l] = some i ↔ heldRead s.lanes[l] = some i := by
  rw [h.lanes]
  split_ifs with hl
  · rw [hl.2]
    exact ⟨nofun, fun e => absurd (Option.some.inj e) hi⟩
  · rfl

theorem Treats.heldCount_other (h : Treats f g) (s : State) {t i : Tag} (hi : t ≠ i) : heldCount i (f s t) = heldCount i s := by
  unfold heldCount
  congr 1
  exact List.filter_congr fun l _ => decide_eq_decide.mpr (h.heldRead_other s hi l)

theorem Treats.foldl_contexts (h : Treats f g) {ts : List Tag} (hd : ts.Nodup) (s : State) (i : Tag) :
    (ts.foldl f s).contexts[i] = if i ∈ ts then g s.contexts[i] (heldCount i s) else s.contexts[i] := by
  induction ts generalizing s with
  | nil => rfl
  | cons t ts ih =>
    obtain ⟨ht, hd⟩ := List.nodup_cons.mp hd
    rw [List.foldl_cons, ih hd]
    by_cases hi : t = i
    · subst hi
      rw [if_neg ht, if_pos List.mem_cons_self, h.own]
    · rw [h.other s hi, h.heldCount_other s hi]
      simp only [List.mem_cons, Ne.symm hi, false_or]

theorem Treats.foldl_lanes (h : Treats f g) {ts : List Tag} (hd : ts.Nodup) (s : State) (l : LaneIx) :
    (ts.foldl f s).lanes[l] =
      if ∃ t ∈ ts, s.contexts[t].state.running = true ∧ heldRead s.lanes[l] = some t then .idle else s.lanes[l] := by
  induction ts generalizing s with
  | nil => simp
  | cons t ts ih =>
    obtain ⟨ht, hd⟩ := List.nodup_cons.mp hd
    have hrest : (∃ i ∈ ts, (f s t).contexts[i].state.running = true ∧ heldRead (f s t).lanes[l] = some i) ↔
        ∃ i ∈ ts, s.contexts[i].state.running = true ∧ heldRead s.lanes[l] = some i := by
      refine exists_congr fun i => and_congr_right fun hi => ?_
      have hne : t ≠ i := fun e => ht (e ▸ hi)
      rw [h.other s hne, h.heldRead_other s hne]
    rw [List.foldl_cons, ih hd, if_congr hrest rfl rfl, h.lanes]
    by_cases hown : s.contexts[t].state.running = true ∧ heldRead s.lanes[l] = some t
    · rw [if_pos hown, ite_self, if_pos ⟨t, List.mem_cons_self, hown⟩]
    · rw [if_neg hown]
      refine if_congr ⟨fun ⟨i, hi, h⟩ => ⟨i, List.mem_cons_of_mem _ hi, h⟩, fun ⟨i, hi, h⟩ => ⟨i, ?_, h⟩⟩ rfl rfl
      refine (List.mem_cons.mp hi).resolve_left fun e => hown ?_
      rwa [← e]

end

/-! ### What is lost, as the statements count it -/

section
variable {p : PortId} {s t : State}

theorem lostJob_job {l : LaneIx} {j : Job} (h : lostJob p s l = some j) : s.lanes[l].job = some j := by
  unfold lostJob at h
  split at h
  · next hl =>
    split_ifs at h
    rw [hl, ← h]
    rfl
  · next hl =>
    split_ifs at h
    rw [hl, ← h]
    rfl
  · cases h

theorem lostJobs_card (p : PortId) (test : Job → Bool) (s : State) :
    lostJobs p test s =
      (Finset.univ.filter fun l : LaneIx => (lostJob p s l).any test = true).card := by
  rw [lostJobs, allLanes, ← List.toFinset_card_of_nodup ((List.nodup_finRange 4).filter _)]
  congr 1
  ext l
  simp only [List.mem_toFinset, List.mem_filter, List.mem_finRange, true_and, Finset.mem_filter, Finset.mem_univ]
  cases lostJob p s l <;> rfl

/-- Where exactly the lanes of the lost outputs are released, the pin counts are those left (R109). -/
theorem taken_eq (h : ∀ l : LaneIx, t.lanes[l] = if (lostJob p s l).isSome = true then .idle else s.lanes[l]) (k : SlotIx) :
    (takenFrom k s t).card = lostJobs p (fun j => j.slot == k) s := by
  rw [lostJobs_card]
  congr 1
  ext l
  rw [mem_takenFrom, h]
  simp only [Finset.mem_filter, Finset.mem_univ, true_and]
  cases hl : lostJob p s l with
  | none =>
    simp only [Option.isSome_none, Bool.false_eq_true, if_false, Option.any_none, iff_false]
    rintro ⟨⟨j, hj, -⟩, hn⟩
    rw [hj] at hn
    cases hn
  | some j =>
    rw [lostJob_job hl]
    simp [Lane.job]

end

/-! ### Slots and the drain, as the statements give them -/

section
variable {p : PortId} {s t : State} {k : SlotIx}

theorem SlotStays.record (h : SlotStays k s.slots[k] t) (hp : t.slots[k].pins = s.pinsLeft p k) :
    t.slots[k] = { s.slots[k] with pins := s.pinsLeft p k } := by
  have hrest := h.2
  rw [← hrest, ← hp]

theorem UnitAt.record {r : SlotRecord} {du : Option Executing} {q : List DrqEntry} (h : UnitAt k r du q t)
    (hp : t.slots[k].pins = s.pinsLeft p k) : t.slots[k] = r.withPins (s.pinsLeft p k) ∧ t.du = du ∧ t.drq = q := by
  obtain ⟨hslot, hdu, hq⟩ := h
  exact ⟨hp ▸ hslot, hdu, hq⟩

/-- At the beginning the drain set is whole (R55, R56). -/
theorem drainAt_whole {goal : DrainGoal} {timer : Option Time} {silent : Bool} {going ended : List DrqEntry}
    (h : SlotsAgree s) (hd : drainedSlot s = some k) (hs : t.slots[k] = s.slots[k]) (hc : t.contexts = s.contexts)
    (hdu : t.du = some ⟨.draining k goal timer, silent⟩) (hq : t.drq = going) :
    DrainAt k goal timer silent going ended s.slots[k] t := by
  obtain ⟨-, hdraining, -, hset, -, hopen⟩ := h k
  have hwhole : s.slots[k].drainSet.filter (fun i => t.contexts[i].state.isOpen) = s.slots[k].drainSet :=
    List.filter_eq_self.mpr fun i hi => by
      rw [hc]
      exact hopen i hi
  refine ⟨fun _ => ⟨?_, hdu, hq⟩, fun hl => absurd (hwhole.symm.trans hl) (hset.mp (hdraining.mpr hd))⟩
  rw [hwhole, hs]
  rfl

theorem DrainAt.goesOn {goal : DrainGoal} {timer : Option Time} {silent : Bool} {going ended : List DrqEntry}
    (h : DrainAt k goal timer silent going ended s.slots[k] t) (hp : t.slots[k].pins = s.pinsLeft p k)
    (hr : t.random = s.random) : DrainGoesOn p k goal timer silent going ended s t :=
  ⟨fun hl => (h.goes hl).record hp, fun hl => ⟨fun hg => ((h.done hl).1 hg).record hp, fun n g hg =>
    ⟨fun hne => (((h.done hl).2 n g hg).1 (hr.symm ▸ hne)).record hp, fun hf =>
      (((h.done hl).2 n g hg).2 (hr.symm ▸ hf)).record hp⟩⟩⟩

end

end Sys2Proof.Machine
end

section
/-! PROOFS. The front link-down event (R84, R98, R112, R137, R152). -/

namespace Sys2Proof.Machine

/-! ### The contexts and the lanes -/

theorem allTags_nodup : allTags.Nodup := List.nodup_finRange 64

theorem mem_allTags (i : Tag) : i ∈ allTags := List.mem_finRange i

theorem running_cases {x : ContextState} (h : x.running = true) : x = .active ∨ x = .flushing := by
  revert h
  cases x <;> decide

theorem context_cases (c : Context) :
    c.state = .free ∨ c.state.running = true ∨ c.state = .ending ∨ c.state = .reporting := by
  cases c.state <;> decide

/-- What a front link loss makes of a context's record, with the READ outputs held for it (R84). -/
def Context.frontLost (c : Context) (n : Nat) : Context :=
  match c.state with
  | .free => c
  | .active | .flushing =>
    Context.left { c with suppressed := true, state := .ending, deadline := none, jobs := c.jobs - n }
  | .ending => Context.left { c with suppressed := true }
  | .reporting => Context.free

section
variable {c : Context} {n : Nat}

theorem Context.frontLost_free (h : c.state = .free) : c.frontLost n = c := by simp only [Context.frontLost, h]

theorem Context.frontLost_reporting (h : c.state = .reporting) : c.frontLost n = Context.free := by
  simp only [Context.frontLost, h]

theorem Context.frontLost_ending (h : c.state = .ending) : c.frontLost n = Context.left { c with suppressed := true } := by
  simp only [Context.frontLost, h]

theorem Context.frontLost_running (h : c.state.running = true) :
    c.frontLost n = Context.left { c with suppressed := true, state := .ending, deadline := none, jobs := c.jobs - n } := by
  rcases running_cases h with hs | hs <;> simp only [Context.frontLost, hs]

end

section
variable {i : Tag} {s : State}

theorem frontLossContext_free (h : s.contexts[i].state = .free) : frontLossContext i s = s := by
  simp only [frontLossContext, h]

theorem frontLossContext_reporting (h : s.contexts[i].state = .reporting) : frontLossContext i s = freeContext i s := by
  simp only [frontLossContext, h]

theorem frontLossContext_ending (h : s.contexts[i].state = .ending) :
    frontLossContext i s = leaveEnding i (putContext i { s.contexts[i] with suppressed := true } s) := by
  unfold frontLossContext
  dsimp only
  split
  · next hs => rw [h] at hs; cases hs
  · next hs => rw [h] at hs; cases hs
  · next hs => rw [h] at hs; cases hs
  · rfl
  · next hs => rw [h] at hs; cases hs

theorem frontLossContext_running (h : s.contexts[i].state.running = true) :
    frontLossContext i s = enterEnding i { s.contexts[i] with suppressed := true } s := by
  unfold frontLossContext
  dsimp only
  split
  · next hs => rw [hs] at h; cases h
  · rfl
  · rfl
  · next hs => rw [hs] at h; cases h
  · next hs => rw [hs] at h; cases h

end

theorem frontLossContext_lanes (i : Tag) (s : State) (l : LaneIx) :
    (frontLossContext i s).lanes[l] =
      if s.contexts[i].state.running = true ∧ heldRead s.lanes[l] = some i then .idle else s.lanes[l] := by
  rcases context_cases s.contexts[i] with hs | hs | hs | hs
  · rw [frontLossContext_free hs, if_neg fun h => by rw [hs] at h; cases h.1]
  · rw [frontLossContext_running hs, enterEnding_lanes]
    simp only [hs, true_and]
  · rw [frontLossContext_ending hs, leaveEnding_lanes, if_neg fun h => by rw [hs] at h; cases h.1]
    rfl
  · rw [frontLossContext_reporting hs, freeContext, leaveDrain_lanes, if_neg fun h => by rw [hs] at h; cases h.1]
    rfl

theorem frontLossContext_own (i : Tag) (s : State) :
    (frontLossContext i s).contexts[i] = s.contexts[i].frontLost (heldCount i s) := by
  rcases context_cases s.contexts[i] with hs | hs | hs | hs
  · rw [frontLossContext_free hs, Context.frontLost_free hs]
  · rw [frontLossContext_running hs, Context.frontLost_running hs, enterEnding_self]
  · rw [frontLossContext_ending hs, Context.frontLost_ending hs, leaveEnding_self, putContext_contexts, set_get_self]
  · rw [frontLossContext_reporting hs, Context.frontLost_reporting hs, freeContext_contexts, set_get_self]

theorem frontLoss_treats : Treats (fun s t => frontLossContext t s) Context.frontLost where
  other _ _ _ h := frontLossContext_contexts_ne h _
  own s t := frontLossContext_own t s
  lanes s t l := frontLossContext_lanes t s l

theorem frontLoss_contexts (s : State) (i : Tag) :
    (frontLoss s).contexts[i] = s.contexts[i].frontLost (heldCount i s) := by
  rw [frontLoss_eq, frontLoss_treats.foldl_contexts allTags_nodup, if_pos (mem_allTags i)]
  rfl

/-- The lost outputs of a front link loss are the READ outputs held for ACTIVE and FLUSHING contexts (R112). -/
theorem lostJob_front (s : State) (l : LaneIx) :
    (lostJob .front s l).isSome = true ↔ ∃ t, s.contexts[t].state.running = true ∧ heldRead s.lanes[l] = some t := by
  unfold lostJob
  rcases hl : s.lanes[l] with _ | _ | ⟨j, f, _ | _⟩
  · simp [heldRead]
  · simp [heldRead]
  · simp [heldRead]
  · simp [-Fin.getElem_fin, heldRead]

theorem frontLoss_lanes (s : State) (l : LaneIx) :
    (frontLoss s).lanes[l] = if (lostJob .front s l).isSome = true then .idle else s.lanes[l] := by
  rw [frontLoss_eq, frontLoss_treats.foldl_lanes allTags_nodup]
  refine if_congr ?_ rfl rfl
  rw [lostJob_front]
  exact exists_congr fun t => and_iff_right (mem_allTags t)

/-- The jobs in flight that a front link loss leaves an ACTIVE or FLUSHING context (R109). -/
theorem jobsLeft_front {s : State} {i : Tag} (h : s.contexts[i].state.running = true) :
    s.jobsLeft .front i = s.contexts[i].jobs - heldCount i s := by
  unfold State.jobsLeft lostJobs heldCount
  congr 2
  refine List.filter_congr fun l _ => ?_
  unfold lostJob
  rcases hl : s.lanes[l] with _ | _ | ⟨j, f, _ | _⟩
  · rfl
  · rfl
  · rfl
  · by_cases hj : j.tag = i
    · subst hj
      simp [-Fin.getElem_fin, heldRead, h]
    · by_cases hr : s.contexts[j.tag].state.running = true <;> simp [-Fin.getElem_fin, heldRead, hr, hj]

/-! ### The moves of the event -/

theorem frontLoss_moves (s : State) : Moves False (frontCut s) (frontLoss s) := by
  rw [frontLoss_eq]
  exact Moves.foldl (P := fun x => x.fiq = []) (fun x y hm hx => hm.fiq.trans hx) (fun x i hx => moves_frontLossContext i hx)
    allTags _ rfl

/-! ### The media head -/

/-- What stands at the media head, and the media port. -/
def State.mediaHead (s : State) : Option Verdict × List Queued × Port := (s.verdict, s.miq, s.media)

theorem leaveDrain_mediaHead (i : Tag) (s : State) : (leaveDrain i s).mediaHead = s.mediaHead := by
  obtain ⟨-, hmiq, hverdict, -⟩ := leaveDrain_heads i s
  rw [State.mediaHead, hmiq, hverdict, (leaveDrain_ports i s).media]
  rfl

theorem leaveEnding_mediaHead (i : Tag) (s : State) : (leaveEnding i s).mediaHead = s.mediaHead := by
  rcases leaveEnding_cases i s with he | ⟨-, -, he | he⟩ <;> rw [he]
  · exact leaveDrain_mediaHead ..
  · exact leaveDrain_mediaHead ..

theorem unread_mediaHead (i : Tag) (s : State) : (s.unread i).mediaHead = s.mediaHead := by
  refine foldl_keeps (g := State.mediaHead) (f := unreadLane i) (fun x l => ?_) allLanes s
  rcases unreadLane_cases i x l with ⟨-, j, -, -, he⟩ | ⟨-, he⟩ <;> rw [he]
  rfl

section
variable {i : Tag} {s : State}

theorem enterEnding_mediaHead (c : Context) (hf : s.fiq = []) :
    (enterEnding i c s).mediaHead = (discardMediaHead i (putContext i { c with state := .ending, deadline := none } s)).mediaHead := by
  rw [enterEnding_eq, discardFrontHead_empty i (by exact hf), leaveEnding_mediaHead, unread_mediaHead]

/-- A context whose frame does not stand at the media head leaves it as it is. -/
theorem frontLossContext_mediaHead (hf : s.fiq = []) (h : ∀ q ∈ s.miq.head?, frameTag q.frame ≠ i) :
    (frontLossContext i s).mediaHead = s.mediaHead := by
  rcases context_cases s.contexts[i] with hs | hs | hs | hs
  · rw [frontLossContext_free hs]
  · rw [frontLossContext_running hs, enterEnding_mediaHead _ hf, discardMediaHead_none (by exact h)]
    rfl
  · rw [frontLossContext_ending hs, leaveEnding_mediaHead]
    rfl
  · rw [frontLossContext_reporting hs, freeContext, leaveDrain_mediaHead]
    rfl

/-- The judged frame of an ACTIVE or FLUSHING context leaves the media head with it (R79). -/
theorem frontLossContext_beheads {q : Queued} (hf : s.fiq = []) (hv : s.verdict.isSome = true) (hq : s.miq.head? = some q)
    (ht : frameTag q.frame = i) (hrun : s.contexts[i].state.running = true) :
    (frontLossContext i s).mediaHead = (s.beheaded .media).mediaHead := by
  rw [frontLossContext_running hrun, enterEnding_mediaHead _ hf, discardMediaHead_eq, if_pos (by exact ⟨hv, q, hq, ht⟩)]
  rfl

theorem foldl_frontLossContext_unjudged (l : List Tag) (hf : s.fiq = []) (hv : s.verdict = none) :
    (l.foldl (fun s t => frontLossContext t s) s).mediaHead = s.mediaHead := by
  have hmoves : Moves False s (l.foldl (fun s t => frontLossContext t s) s) :=
    Moves.foldl (P := fun x => x.fiq = []) (fun x y hm hx => hm.fiq.trans hx) (fun x i hx => moves_frontLossContext i hx) l s hf
  obtain ⟨hverdict, hmiq, hmedia⟩ := hmoves.unjudged ⟨hv, rfl, rfl⟩
  rw [State.mediaHead, hverdict, hmiq, hmedia, State.mediaHead, hv]

/-- The clearing comes to the context of the judged frame at the media head. -/
theorem foldl_frontLossContext_beheads {q : Queued} {l : List Tag} (hd : l.Nodup) (hl : frameTag q.frame ∈ l)
    (hf : s.fiq = []) (hv : s.verdict.isSome = true) (hq : s.miq.head? = some q)
    (hrun : s.contexts[frameTag q.frame].state.running = true) :
    (l.foldl (fun s t => frontLossContext t s) s).mediaHead = (s.beheaded .media).mediaHead := by
  induction l generalizing s with
  | nil => exact absurd hl List.not_mem_nil
  | cons t l ih =>
    obtain ⟨ht, hd⟩ := List.nodup_cons.mp hd
    have hf' : (frontLossContext t s).fiq = [] := (moves_frontLossContext (report := False) t hf).fiq.trans hf
    rw [List.foldl_cons]
    by_cases hi : frameTag q.frame = t
    · have hhead := frontLossContext_beheads hf hv hq hi (hi ▸ hrun)
      rw [foldl_frontLossContext_unjudged l hf' (congrArg Prod.fst hhead), hhead]
    · have hhead := frontLossContext_mediaHead (i := t) hf (by rw [hq]; rintro x ⟨⟩; exact hi)
      have hverdict : (frontLossContext t s).verdict = s.verdict := congrArg Prod.fst hhead
      have hmiq : (frontLossContext t s).miq = s.miq := congrArg (fun x => x.2.1) hhead
      have hmedia : (frontLossContext t s).media = s.media := congrArg (fun x => x.2.2) hhead
      have hlimits : (frontLossContext t s).limits = s.limits := (frontLossContext_calm t s).limits
      rw [ih hd ((List.mem_cons.mp hl).resolve_left hi) hf' (hverdict ▸ hv) (hmiq ▸ hq)
        (by rw [frontLossContext_contexts_ne (Ne.symm hi)]; exact hrun)]
      simp only [State.mediaHead, State.beheaded, State.testedAt, putPort, State.port, hmiq, hmedia, hlimits]

end

theorem frontLoss_unjudged {s : State} (hv : s.verdict = none) : (frontLoss s).mediaHead = s.mediaHead :=
  foldl_frontLossContext_unjudged allTags (s := frontCut s) rfl hv

theorem frontLoss_judged {s : State} {q : Queued} (hv : s.verdict.isSome = true) (hq : s.miq.head? = some q)
    (hrun : s.contexts[frameTag q.frame].state.running = true) :
    (frontLoss s).mediaHead = (s.beheaded .media).mediaHead :=
  foldl_frontLossContext_beheads (s := frontCut s) allTags_nodup (mem_allTags _) rfl hv hq hrun

/-! ### The transmitters afterwards -/

theorem mediaTransmit_media_congr {s t : State} (hm : t.media = s.media) (hq : t.moq = s.moq) :
    (mediaTransmit t).media = (mediaTransmit s).media := by
  have hchoice : mediaChoice t = mediaChoice s := by rw [mediaChoice, mediaChoice, hm, hq]
  unfold mediaTransmit
  rw [hchoice, hm]
  by_cases h : s.media.link = .up ∧ s.media.sending = none
  · rw [if_pos h, if_pos h]
    cases mediaChoice s with
    | none => exact hm
    | some x => rfl
  · rw [if_neg h, if_neg h]
    exact hm

theorem frontTransmit_down {s : State} (h : s.front.link = .down) : frontTransmit s = s :=
  if_neg fun hn => by rw [h] at hn; cases hn.1

theorem transmit_front_down {s : State} (h : s.front.link = .down) : transmit s = mediaTransmit s := by
  rw [transmit, frontTransmit_down h]

theorem mediaTransmit_down {s : State} (h : s.media.link = .down) : mediaTransmit s = s :=
  if_neg fun hn => by rw [h] at hn; cases hn.1

/-! ### What the event leaves -/

section
variable (s : State)

/-- The front link loss keeps an executing directive's entry alone, and silences it (R98). -/
theorem frontCut_silent : Silent (executingEntries s) (frontCut s) := by
  refine ⟨fun d hd => ?_, executingEntries_length s, ?_⟩
  · unfold executingEntries at hd
    cases hdu : s.du with
    | none =>
      rw [hdu] at hd
      cases hd
    | some x =>
      rw [hdu] at hd
      have hfound : firstUnexecuted s.drq = some d := Option.mem_toList.mp hd
      simpa using List.find?_some hfound
  · cases hdu : s.du with
    | none => exact .inr ⟨by simp [frontCut, executingEntries, hdu], by simp [frontCut, hdu]⟩
    | some x => exact .inl ⟨rfl, x.task, by simp [frontCut, hdu]⟩

theorem frontLoss_silent : Silent (executingEntries s) (frontLoss s) ∧ (frontLoss s).rpq = [] :=
  (frontLoss_moves s).silent ⟨frontCut_silent s, rfl⟩

theorem frontLoss_calm : Calm (frontCut s) (frontLoss s) :=
  Calm.foldl (fun s t => frontLossContext_calm t s) _ _

theorem frontLoss_pins (k : SlotIx) : (frontLoss s).slots[k].pins = s.pinsLeft .front k := by
  rw [State.pinsLeft, ← taken_eq (frontLoss_lanes s)]
  exact (frontLoss_moves s).emptied.pins k

theorem frontLoss_unit : UnitStays (frontCut s) (frontLoss s) :=
  UnitStays.foldl (fun s t => frontLossContext_unit t s) _ _

theorem executingEntries_next {done rest : List DrqEntry} {e : DrqEntry} (hn : Next done e rest s)
    (hdu : s.du.isSome = true) : executingEntries s = [e] := by
  obtain ⟨x, hx⟩ := Option.isSome_iff_exists.mp hdu
  obtain ⟨hq, hdone, he⟩ := hn
  unfold executingEntries
  rw [hx, hq, firstUnexecuted_split hdone he]
  rfl

end

/-- Leaving ENDING with the completion suppressed is becoming FREE (R80). -/
theorem Context.left_suppressed {c : Context} (hs : c.state = .ending) (h : c.suppressed = true) :
    c.left = if c.jobs = 0 then Context.free else c := by
  unfold Context.left
  by_cases hj : c.jobs = 0
  · rw [if_pos ⟨hs, hj⟩, if_pos h, if_pos hj]
  · rw [if_neg fun hn => hj hn.2, if_neg hj]

/-- After a front link loss a context is FREE, or ENDING with its completion suppressed (R84). -/
theorem Context.frontLost_state (c : Context) (n : Nat) :
    (c.frontLost n).state = .free ∨ ((c.frontLost n).state = .ending ∧ (c.frontLost n).suppressed = true) := by
  have hleft {c : Context} (hs : c.state = .ending) (h : c.suppressed = true) :
      c.left.state = .free ∨ (c.left.state = .ending ∧ c.left.suppressed = true) := by
    rw [Context.left_suppressed hs h]
    by_cases hj : c.jobs = 0
    · rw [if_pos hj]
      exact .inl rfl
    · rw [if_neg hj]
      exact .inr ⟨hs, h⟩
  rcases context_cases c with hs | hs | hs | hs
  · rw [Context.frontLost_free hs]
    exact .inl hs
  · rw [Context.frontLost_running hs]
    exact hleft rfl rfl
  · rw [Context.frontLost_ending hs]
    exact hleft hs rfl
  · rw [Context.frontLost_reporting hs]
    exact .inl rfl

theorem Context.frontLost_not_running (c : Context) (n : Nat) : (c.frontLost n).state.running = false := by
  rcases c.frontLost_state n with hs | ⟨hs, -⟩ <;> rw [hs] <;> rfl

theorem heldRead_of_heldFor {x : Lane} (h : heldFor x = some .fsq) : ∃ i, heldRead x = some i := by
  rcases x with _ | _ | ⟨j, f, _ | _⟩
  · cases h
  · cases h
  · cases h
  · exact ⟨j.tag, rfl⟩

theorem heldFor_of_heldRead {x : Lane} {i : Tag} (h : heldRead x = some i) : heldFor x = some .fsq := by
  rcases x with _ | _ | ⟨j, f, _ | _⟩
  · cases h
  · cases h
  · cases h
  · rfl

/-- No lane holds a READ output any more, and the hold list of the MOQ is as it was (R112). -/
theorem frontLoss_holds {s : State} (h : HoldListsAgree s) : (frontLoss s).fsqHold = [] ∧ (frontLoss s).moqHold = s.moqHold := by
  have hbooks := (holdListsAgree_iff s).mp h
  have hlisted := hbooks.listed trivial
  have hlisted' := hbooks.frontLoss.listed trivial
  constructor
  · refine List.eq_nil_iff_forall_not_mem.mpr fun l hl => ?_
    obtain ⟨i, hi⟩ := heldRead_of_heldFor ((hlisted'.fsq l).mp hl)
    have hrun := hbooks.frontLoss.held trivial l i hi
    rw [frontLoss_contexts, Context.frontLost_not_running] at hrun
    exact Bool.noConfusion hrun
  · refine (frontLoss_moves s).emptied.moqHold.eq_of_length ?_
    refine ((List.perm_ext_iff_of_nodup hlisted'.moqOnce hlisted.moqOnce).mpr fun l => ?_).length_eq
    rw [hlisted'.moq, hlisted.moq, frontLoss_lanes]
    by_cases hl : (lostJob .front s l).isSome = true
    · obtain ⟨t, -, ht⟩ := (lostJob_front s l).mp hl
      rw [if_pos hl, heldFor_of_heldRead ht]
      exact ⟨nofun, nofun⟩
    · rw [if_neg hl]

end Sys2Proof.Machine

namespace Sys2Proof.Machine

/-- Settles O28: the moves of the event keep what it says of the queues, the slots and the Directive Unit, and every context
and lane is as its turn leaves it. -/
theorem frontLinkLoss : Obligations.FrontLinkLoss := by
  intro s hheads hreset hup
  have hmoves := frontLoss_moves s
  have hcalm := frontLoss_calm s
  obtain ⟨hsilent, hrpq⟩ := frontLoss_silent s
  have hdown : (frontLoss s).front = s.front.lost := hmoves.front
  have hexec : exec .frontLinkDown s = .next (mediaTransmit (frontLoss s)) := by
    change execFrontLinkDown s = _
    unfold execFrontLinkDown
    rw [if_neg (by rw [hreset, hup]; simp), transmit_front_down (by rw [hdown]; rfl)]
  have hjudged (hv : s.verdict ≠ none) : (frontLoss s).mediaHead = (s.beheaded .media).mediaHead := by
    have hsome := Option.isSome_iff_ne_none.mpr hv
    obtain ⟨q, hq, hb⟩ := hheads.1 hsome
    exact frontLoss_judged hsome hq (by rw [belongsToRead_active hb]; rfl)
  have hunjudged (hv : s.verdict = none) := frontLoss_unjudged hv
  have hcontexts := frontLoss_contexts s
  have hlanes := frontLoss_lanes s
  have hholds (h : HoldListsAgree s) := frontLoss_holds h
  have hpins := frontLoss_pins s
  have hunit := frontLoss_unit s
  generalize frontLoss s = x at *
  have hverdict : x.verdict = none := by
    by_cases hv : s.verdict = none
    · exact (congrArg Prod.fst (hunjudged hv)).trans hv
    · exact congrArg Prod.fst (hjudged hv)
  rw [mediaTransmit_frame] at hexec
  refine ⟨_, hexec, hdown, ⟨hmoves.fiq, hcalm.fsq, hrpq, hverdict, hcalm.moq⟩, fun hv => ⟨?_, ?_⟩, fun hv => ⟨?_, ?_⟩,
    hcalm.events, ?_, fun i => ?_, fun i hs => ?_, fun i hs => ?_, fun i hs => ?_, fun i hs => ?_, hlanes,
    hholds, fun k hk => ?_, fun hdu => ?_, fun done e rest hn hdu => ?_,
    fun done e rest hn task silent hdu hd => ?_, fun done e rest hn hagree k goal timer silent hdu => ?_,
    hcalm.time, hcalm.limits, hcalm.ranges, hcalm.wrapping, hcalm.random, hcalm.frontTurn, hcalm.laneTurn,
    hcalm.inReset.trans hreset, hcalm.pending⟩
  · exact congrArg (fun y => y.2.1) (hunjudged hv)
  · exact mediaTransmit_media_congr (congrArg (fun y => y.2.2) (hunjudged hv)) hcalm.moq
  · exact congrArg (fun y => y.2.1) (hjudged hv)
  · exact mediaTransmit_media_congr (congrArg (fun y => y.2.2) (hjudged hv)) hcalm.moq
  · refine hcalm.autoLock.trans ?_
    change (autoLockSpan s.limits.selector).map (timeAfter s.time) = _
    unfold autoLockSpan
    split_ifs <;> rfl
  · change (x.contexts[i]).state = _ ∨ (x.contexts[i]).state = _ ∧ (x.contexts[i]).suppressed = _
    rw [hcontexts]
    exact Context.frontLost_state ..
  · exact (hcontexts i).trans (Context.frontLost_free hs)
  · exact (hcontexts i).trans (Context.frontLost_reporting hs)
  · refine (hcontexts i).trans ((Context.frontLost_ending hs).trans ?_)
    exact Context.left_suppressed hs rfl
  · refine (hcontexts i).trans ((Context.frontLost_running hs).trans ?_)
    rw [jobsLeft_front hs]
    exact Context.left_suppressed rfl rfl
  · have hstays : SlotStays k s.slots[k] (frontCut s) := ⟨by rw [(frontCut_unit s).2]; exact hk, rfl⟩
    exact (hmoves.slotStays hstays).record (hpins k)
  · have hq : executingEntries s = [] := by unfold executingEntries; rw [hdu]
    refine ⟨?_, hcalm.du (by simp [frontCut, hdu])⟩
    rcases hsilent.unit with ⟨hdrq, -⟩ | ⟨hdrq, -⟩
    · exact hdrq.trans hq
    · exact hdrq
  · have hq := executingEntries_next s hn hdu
    exact hq ▸ hsilent.unit
  · have hq := executingEntries_next s hn (by rw [hdu]; rfl)
    obtain ⟨hstay, hdrq⟩ := hunit.keep ((frontCut_unit s).2.trans hd)
    exact ⟨hdrq.trans hq, hstay.trans (by simp [frontCut, hdu])⟩
  · have hq := executingEntries_next s hn (by rw [hdu]; rfl)
    have hends : QueueEnds true [e] [] := ⟨[], e, [], rfl, by simp, hn.2.2, rfl⟩
    have hwhole : DrainAt k goal timer true [e] [] s.slots[k] (frontCut s) :=
      drainAt_whole hagree (drainedSlot_some hdu).1 rfl rfl (by simp [frontCut, hdu]) hq
    exact (hmoves.drainAt hends hwhole).goesOn (hpins k) hcalm.random

end Sys2Proof.Machine
end

section
/-! PROOFS. The media link-down event (R80, R85, R109, R111, R154). -/

namespace Sys2Proof.Machine

/-! ### Held WRITE outputs -/

/-- The tag of the WRITE output that a lane holds, if it holds one. -/
def heldWrite : Lane → Option Tag
  | .holding j _ .moq => some j.tag
  | _ => none

/-- The number of WRITE outputs that lanes hold for a tag. -/
def writeCount (i : Tag) (s : State) : Nat := (allLanes.filter (fun l => heldWrite s.lanes[l] = some i)).length

/-- A context's record when an output of it is discarded (R80, R109). -/
def Context.drop (c : Context) : Context := Context.left { c with jobs := c.jobs - 1 }

theorem allLanes_nodup : allLanes.Nodup := List.nodup_finRange 4

theorem writeCount_congr {s t : State} (h : ∀ l : LaneIx, heldWrite t.lanes[l] = heldWrite s.lanes[l]) (i : Tag) :
    writeCount i t = writeCount i s := by
  unfold writeCount
  simp only [h]

section
variable {c : Context} {n : Nat}

/-- A context that is not ENDING and has no jobs in flight is not reached by discards. -/
theorem Context.drops_closed (hs : c.state ≠ .ending) (hj : c.jobs = 0) : Context.drop^[n] c = c := by
  have hdrop : c.drop = c := by
    have hc : { c with jobs := c.jobs - 1 } = c := by rw [hj, Nat.zero_sub, ← hj]
    rw [Context.drop, hc, Context.left, if_neg fun h => hs h.1]
  exact Function.iterate_fixed hdrop n

theorem Context.left_of_jobs (hj : c.jobs ≠ 0) : c.left = c := if_neg fun h => hj h.2

theorem Context.left_of_ending (hs : c.state = .ending) (hj : c.jobs = 0) :
    c.left = if c.suppressed then Context.free else { c with state := .reporting, deadline := none } := if_pos ⟨hs, hj⟩

/-- A context that has left ENDING is not reached by discards. -/
theorem Context.drops_left (hs : c.state = .ending) (hj : c.jobs = 0) : Context.drop^[n] c.left = c.left := by
  refine Context.drops_closed ?_ ?_ <;> rw [Context.left_of_ending hs hj] <;> by_cases h : c.suppressed = true
  · rw [if_pos h]
    exact nofun
  · rw [if_neg h]
    exact nofun
  · rw [if_pos h]
    rfl
  · rw [if_neg h]
    exact hj

/-- Discards of an ENDING context with jobs in flight: it stays while jobs are left, and leaves with the last one (R80). -/
theorem Context.drops_ending (hs : c.state = .ending) (hj : c.jobs ≠ 0) :
    Context.drop^[n] c =
      if c.jobs - n ≠ 0 then { c with jobs := c.jobs - n } else Context.left { c with jobs := 0 } := by
  induction n generalizing c with
  | zero =>
    rw [if_pos (by omega)]
    rfl
  | succ n ih =>
    rw [Function.iterate_succ_apply]
    by_cases h1 : c.jobs = 1
    · have hdrop : c.drop = Context.left { c with jobs := 0 } := by rw [Context.drop, h1]
      rw [hdrop, Context.drops_left (by exact hs) rfl, if_neg (by omega)]
    · have hdrop : c.drop = { c with jobs := c.jobs - 1 } :=
        Context.left_of_jobs (show c.jobs - 1 ≠ 0 by omega)
      rw [hdrop, ih (by exact hs) (show c.jobs - 1 ≠ 0 by omega)]
      simp only [Nat.sub_sub, Nat.add_comm 1 n]

/-- An ENDING context keeps its status through discards, or becomes FREE. -/
theorem Context.drops_status (hs : c.state = .ending) :
    (Context.drop^[n] c).ending = c.ending ∨ Context.drop^[n] c = Context.free := by
  have hleft {c : Context} (hs : c.state = .ending) (hj : c.jobs = 0) : c.left.ending = c.ending ∨ c.left = Context.free := by
    rw [Context.left_of_ending hs hj]
    by_cases h : c.suppressed = true
    · rw [if_pos h]
      exact .inr rfl
    · rw [if_neg h]
      exact .inl rfl
  by_cases hj : c.jobs = 0
  · cases n with
    | zero => exact .inl rfl
    | succ n =>
      have hc : { c with jobs := c.jobs - 1 } = c := by rw [hj, Nat.zero_sub, ← hj]
      rw [Function.iterate_succ_apply, Context.drop, hc, Context.drops_left hs hj]
      exact hleft hs hj
  · rw [Context.drops_ending hs hj]
    by_cases h : c.jobs - n ≠ 0
    · rw [if_pos h]
      exact .inl rfl
    · rw [if_neg h]
      exact hleft (c := { c with jobs := 0 }) hs rfl

end

section
variable {s : State}

theorem discardHeldWrite_cases (l : LaneIx) (s : State) :
    (∃ j, s.lanes[l].job = some j ∧ heldWrite s.lanes[l] = some j.tag ∧ discardHeldWrite l s = discardOutput l j s) ∨
    (heldWrite s.lanes[l] = none ∧ discardHeldWrite l s = s) := by
  unfold discardHeldWrite
  split
  · next j _ hl => exact .inl ⟨j, by rw [hl]; rfl, by rw [hl]; rfl, rfl⟩
  · next hno =>
    refine .inr ⟨?_, rfl⟩
    rcases hl : s.lanes[l] with _ | _ | ⟨j, f, _ | _⟩
    · rfl
    · rfl
    · exact absurd hl (hno j f)
    · rfl

theorem discardOutput_self (l : LaneIx) (j : Job) (s : State) :
    (discardOutput l j s).contexts[j.tag] = s.contexts[j.tag].drop := by
  rw [discardOutput, leaveEnding_self, releaseLane_eq, Context.drop]
  change Context.left ((s.contexts.set j.tag _)[j.tag]) = _
  rw [set_get_self]

theorem discardOutput_other {l : LaneIx} {j : Job} {i : Tag} (h : j.tag ≠ i) (s : State) :
    (discardOutput l j s).contexts[i] = s.contexts[i] := by
  rw [discardOutput, leaveEnding_contexts_ne h, releaseLane_eq, released_contexts_ne l j s h]

theorem discardOutput_lanes (l : LaneIx) (j : Job) (s : State) (n : LaneIx) :
    (discardOutput l j s).lanes[n] = if l = n then .idle else s.lanes[n] := by
  rw [discardOutput, leaveEnding_lanes]
  exact set_get ..

theorem discardHeldWrite_lanes (l n : LaneIx) (s : State) :
    (discardHeldWrite l s).lanes[n] = if n = l ∧ (heldWrite s.lanes[n]).isSome = true then .idle else s.lanes[n] := by
  rcases discardHeldWrite_cases l s with ⟨j, -, hh, he⟩ | ⟨hh, he⟩ <;> rw [he]
  · rw [discardOutput_lanes]
    by_cases hn : l = n
    · subst hn
      rw [if_pos rfl, hh, if_pos ⟨rfl, rfl⟩]
    · rw [if_neg hn, if_neg fun h => hn h.1.symm]
  · rw [if_neg]
    rintro ⟨rfl, h⟩
    rw [hh] at h
    cases h

theorem foldl_discardHeldWrite_lanes {ls : List LaneIx} (s : State) (n : LaneIx) :
    (ls.foldl (fun s l => discardHeldWrite l s) s).lanes[n] =
      if n ∈ ls ∧ (heldWrite s.lanes[n]).isSome = true then .idle else s.lanes[n] := by
  induction ls generalizing s with
  | nil => simp
  | cons l ls ih =>
    rw [List.foldl_cons, ih, discardHeldWrite_lanes]
    by_cases hc : n = l ∧ (heldWrite s.lanes[n]).isSome = true
    · rw [if_pos hc, ite_self, if_pos ⟨List.mem_cons.mpr (.inl hc.1), hc.2⟩]
    · rw [if_neg hc]
      exact if_congr ⟨fun h => ⟨List.mem_cons_of_mem _ h.1, h.2⟩, fun h =>
        ⟨(List.mem_cons.mp h.1).resolve_left fun e => hc ⟨e, h.2⟩, h.2⟩⟩ rfl rfl

theorem foldl_discardHeldWrite_contexts {ls : List LaneIx} (hd : ls.Nodup) (s : State) (i : Tag) :
    (ls.foldl (fun s l => discardHeldWrite l s) s).contexts[i] =
      Context.drop^[(ls.filter (fun l => heldWrite s.lanes[l] = some i)).length] s.contexts[i] := by
  induction ls generalizing s with
  | nil => rfl
  | cons l ls ih =>
    obtain ⟨hl, hd⟩ := List.nodup_cons.mp hd
    have hrest : ls.filter (fun n => heldWrite (discardHeldWrite l s).lanes[n] = some i) =
        ls.filter (fun n => heldWrite s.lanes[n] = some i) :=
      List.filter_congr fun n hn => by
        have hne : ¬ (n = l ∧ (heldWrite s.lanes[n]).isSome = true) := fun h => hl (h.1 ▸ hn)
        rw [discardHeldWrite_lanes, if_neg hne]
    rw [List.foldl_cons, ih hd, hrest]
    rcases discardHeldWrite_cases l s with ⟨j, -, hh, he⟩ | ⟨hh, he⟩ <;> rw [he]
    · by_cases hj : j.tag = i
      · subst hj
        rw [List.filter_cons_of_pos (by exact decide_eq_true hh), List.length_cons, Function.iterate_succ_apply,
          discardOutput_self]
      · rw [List.filter_cons_of_neg (by rw [hh]; simpa using hj), discardOutput_other hj]
    · rw [List.filter_cons_of_neg (by rw [hh]; simp)]

end

/-! ### Contexts and lanes -/

/-- What a media link loss makes of a context's record, with the READ outputs held for it (R85). -/
def Context.mediaLost (c : Context) (n : Nat) : Context :=
  if c.state.running then
    Context.left { c with
      ending := some .mediaLost, firstFail := none, state := .ending, deadline := none, jobs := c.jobs - n }
  else c

theorem mediaLoss_treats : Treats (fun s t => endTransfer t .mediaLost none s) Context.mediaLost where
  other _ _ _ h := endTransfer_contexts_ne h ..
  own s t := by
    unfold endTransfer Context.mediaLost
    by_cases h : s.contexts[t].state.running = true
    · rw [if_pos h, if_pos h, enterEnding_self]
    · rw [if_neg h, if_neg h]
  lanes s t l := by
    unfold endTransfer
    by_cases h : s.contexts[t].state.running = true
    · rw [if_pos h, enterEnding_lanes]
      simp only [h, true_and]
    · rw [if_neg h, if_neg fun hn => h hn.1]

/-- The transfers of a state with empty media queues, ended. -/
def mediaEnded (s : State) : State := allTags.foldl (fun s t => endTransfer t .mediaLost none s) s

theorem mediaEnded_lanes (s : State) (l : LaneIx) :
    (mediaEnded s).lanes[l] =
      if ∃ t, s.contexts[t].state.running = true ∧ heldRead s.lanes[l] = some t then .idle else s.lanes[l] := by
  rw [mediaEnded, mediaLoss_treats.foldl_lanes allTags_nodup]
  exact if_congr (exists_congr fun t => and_iff_right (mem_allTags t)) rfl rfl

theorem heldWrite_of_heldRead {x : Lane} {i : Tag} (h : heldRead x = some i) : heldWrite x = none := by
  rcases x with _ | _ | ⟨j, f, _ | _⟩
  · rfl
  · rfl
  · cases h
  · rfl

/-- The ending of transfers discards no WRITE output. -/
theorem mediaEnded_heldWrite (s : State) (l : LaneIx) : heldWrite (mediaEnded s).lanes[l] = heldWrite s.lanes[l] := by
  rw [mediaEnded_lanes]
  split_ifs with h
  · obtain ⟨t, -, ht⟩ := h
    exact (heldWrite_of_heldRead ht).symm
  · rfl

theorem mediaEnds_eq (s : State) : mediaEnds s = allLanes.foldl (fun s l => discardHeldWrite l s) (mediaEnded s) := rfl

theorem mediaEnds_contexts (s : State) (i : Tag) :
    (mediaEnds s).contexts[i] = Context.drop^[writeCount i s] (s.contexts[i].mediaLost (heldCount i s)) := by
  have hown : (mediaEnded s).contexts[i] = s.contexts[i].mediaLost (heldCount i s) := by
    rw [mediaEnded, mediaLoss_treats.foldl_contexts allTags_nodup, if_pos (mem_allTags i)]
  rw [mediaEnds_eq, foldl_discardHeldWrite_contexts allLanes_nodup, hown, ← writeCount, writeCount_congr (mediaEnded_heldWrite s)]

theorem lostJob_media (s : State) (l : LaneIx) :
    (lostJob .media s l).isSome = true ↔
      (∃ t, s.contexts[t].state.running = true ∧ heldRead s.lanes[l] = some t) ∨ (heldWrite s.lanes[l]).isSome = true := by
  unfold lostJob
  rcases hl : s.lanes[l] with _ | _ | ⟨j, f, _ | _⟩
  · simp [heldRead, heldWrite]
  · simp [heldRead, heldWrite]
  · simp [heldRead, heldWrite]
  · simp [-Fin.getElem_fin, heldRead, heldWrite]

theorem mediaEnds_lanes (s : State) (l : LaneIx) :
    (mediaEnds s).lanes[l] = if (lostJob .media s l).isSome = true then .idle else s.lanes[l] := by
  rw [mediaEnds_eq, foldl_discardHeldWrite_lanes, mediaEnded_heldWrite, mediaEnded_lanes, if_congr (lostJob_media s l) rfl rfl]
  have hmem : l ∈ allLanes := List.mem_finRange l
  by_cases hw : (heldWrite s.lanes[l]).isSome = true
  · rw [if_pos ⟨hmem, hw⟩, if_pos (.inr hw)]
  · rw [if_neg fun h => hw h.2]
    exact if_congr (or_iff_left hw).symm rfl rfl

/-! ### Jobs left -/

theorem length_filter_or {α : Type} {p q : α → Bool} (h : ∀ a, ¬ (p a = true ∧ q a = true)) (l : List α) :
    (l.filter (fun a => p a || q a)).length = (l.filter p).length + (l.filter q).length := by
  induction l with
  | nil => rfl
  | cons a l ih =>
    have ha := h a
    cases hp : p a <;> cases hq : q a <;> simp_all <;> omega

/-- The jobs in flight that a media link loss takes from a context (R109, R111). -/
theorem lostJobs_media (s : State) (i : Tag) :
    lostJobs .media (fun j => j.tag == i) s =
      (if s.contexts[i].state.running = true then heldCount i s else 0) + writeCount i s := by
  have hread (l : LaneIx) : (lostJob .media s l).any (fun j => j.tag == i) =
      (decide (s.contexts[i].state.running = true ∧ heldRead s.lanes[l] = some i) || decide (heldWrite s.lanes[l] = some i)) := by
    unfold lostJob
    rcases hl : s.lanes[l] with _ | _ | ⟨j, f, _ | _⟩
    · simp [heldRead, heldWrite]
    · simp [heldRead, heldWrite]
    · by_cases hj : j.tag = i <;> simp [heldRead, heldWrite, hj]
    · by_cases hj : j.tag = i
      · subst hj
        by_cases hr : s.contexts[j.tag].state.running = true <;> simp [-Fin.getElem_fin, heldRead, heldWrite, hr]
      · by_cases hr : s.contexts[j.tag].state.running = true <;> simp [-Fin.getElem_fin, heldRead, heldWrite, hr, hj]
  have hboth (l : LaneIx) : ¬ (decide (s.contexts[i].state.running = true ∧ heldRead s.lanes[l] = some i) = true ∧
      decide (heldWrite s.lanes[l] = some i) = true) := fun ⟨hr, hw⟩ => by
    have := heldWrite_of_heldRead (of_decide_eq_true hr).2
    rw [of_decide_eq_true hw] at this
    cases this
  have hlost : lostJobs .media (fun j => j.tag == i) s =
      (allLanes.filter (fun l => (lostJob .media s l).any (fun j => j.tag == i))).length := by
    unfold lostJobs
    congr 1
    refine List.filter_congr fun l _ => ?_
    cases lostJob .media s l <;> rfl
  rw [hlost, List.filter_congr (fun l _ => hread l), length_filter_or hboth]
  congr 1
  by_cases hr : s.contexts[i].state.running = true
  · simp only [hr, true_and, if_true]
    rfl
  · simp only [hr, false_and, decide_false, Bool.false_eq_true, if_false, List.filter_false, List.length_nil]

/-! ### The records that the event leaves -/

section
variable {s : State} {i : Tag}

theorem jobsLeft_media (s : State) (i : Tag) :
    s.jobsLeft .media i =
      s.contexts[i].jobs - ((if s.contexts[i].state.running = true then heldCount i s else 0) + writeCount i s) := by
  rw [State.jobsLeft, lostJobs_media]

/-- An ACTIVE or FLUSHING context ends MEDIA_LOST (R85). -/
theorem mediaEnds_running (h : s.contexts[i].state.running = true) :
    (mediaEnds s).contexts[i] = { s.contexts[i] with
        state := if s.jobsLeft .media i = 0 then .reporting else .ending, ending := some .mediaLost, firstFail := none,
        deadline := none, jobs := s.jobsLeft .media i } ∨
      (s.contexts[i].suppressed = true ∧ (mediaEnds s).contexts[i] = Context.free) := by
  have hjobs := jobsLeft_media s i
  rw [if_pos h] at hjobs
  rw [mediaEnds_contexts, Context.mediaLost, if_pos h]
  generalize s.jobsLeft .media i = left at hjobs ⊢
  have gone {c : Context} (hs : c.state = .ending) (hj : c.jobs = 0) :
      c.left = { c with state := .reporting, deadline := none } ∨ (c.suppressed = true ∧ c.left = Context.free) := by
    rw [Context.left_of_ending hs hj]
    by_cases hsup : c.suppressed = true
    · exact .inr ⟨hsup, if_pos hsup⟩
    · exact .inl (if_neg hsup)
  by_cases h0 : s.contexts[i].jobs - heldCount i s = 0
  · have hleft : left = 0 := by omega
    rw [Context.drops_left (by rfl) (by exact h0), hleft]
    rcases gone (c := { s.contexts[i] with
      ending := some .mediaLost, firstFail := none, state := .ending, deadline := none,
      jobs := s.contexts[i].jobs - heldCount i s }) rfl h0 with hl | hl
    · refine .inl (hl.trans ?_)
      rw [h0]
      rfl
    · exact .inr hl
  · rw [Context.left_of_jobs (by exact h0), Context.drops_ending (by rfl) (by exact h0)]
    dsimp only
    rw [Nat.sub_sub, ← hjobs]
    by_cases hl : left = 0
    · rw [if_neg (not_not.mpr hl), hl]
      exact gone (c := { s.contexts[i] with
        ending := some .mediaLost, firstFail := none, state := .ending, deadline := none, jobs := 0 }) rfl rfl
    · rw [if_pos hl, if_neg hl]
      exact .inl rfl

theorem mediaLost_of_not_running (h : s.contexts[i].state.running = false) (n : Nat) :
    s.contexts[i].mediaLost n = s.contexts[i] := by
  rw [Context.mediaLost, h]
  rfl

/-- A FREE or REPORTING context stays as it is (R85). -/
theorem mediaEnds_closed (h : s.contexts[i].state = .free ∨ s.contexts[i].state = .reporting) (hj : s.contexts[i].jobs = 0) :
    (mediaEnds s).contexts[i] = s.contexts[i] := by
  have hrun : s.contexts[i].state.running = false := by rcases h with h | h <;> rw [h] <;> rfl
  rw [mediaEnds_contexts, mediaLost_of_not_running hrun]
  exact Context.drops_closed (by rcases h with h | h <;> rw [h] <;> exact nofun) hj

/-- An ENDING context keeps its status or is FREE (R80). -/
theorem mediaEnds_status (h : s.contexts[i].state = .ending) :
    (mediaEnds s).contexts[i].ending = s.contexts[i].ending ∨ (mediaEnds s).contexts[i] = Context.free := by
  rw [mediaEnds_contexts, mediaLost_of_not_running (by rw [h]; rfl)]
  exact Context.drops_status h

/-- An ENDING context keeps its record but for the discarded jobs, and leaves with the last one (R80, R85). -/
theorem mediaEnds_ending (h : s.contexts[i].state = .ending) (hj : s.contexts[i].jobs ≠ 0) :
    (mediaEnds s).contexts[i] =
      if s.jobsLeft .media i ≠ 0 then { s.contexts[i] with jobs := s.jobsLeft .media i }
      else if s.contexts[i].suppressed = true then Context.free
      else { s.contexts[i] with state := .reporting, deadline := none, jobs := 0 } := by
  have hrun : s.contexts[i].state.running = false := by rw [h]; rfl
  have hjobs := jobsLeft_media s i
  rw [hrun, if_neg Bool.false_ne_true, Nat.zero_add] at hjobs
  rw [mediaEnds_contexts, mediaLost_of_not_running hrun, Context.drops_ending h hj, hjobs]
  exact if_congr Iff.rfl rfl (Context.left_of_ending h rfl)

end

/-! ### The front head -/

/-- A sector waits at the front head for a lane. -/
def SectorWaits (s : State) : Prop := ∃ q ∈ s.fiq.head?, frontCandidate q s = true

/-- A media link loss first empties the media queues and discards the sector that waits at the front head (R71, R79, R154). -/
theorem mediaCut_cases (s : State) :
    (SectorWaits s ∧ mediaCut s = State.beheaded .front { s with media := s.media.lost, miq := [], moq := [], verdict := none }) ∨
    (¬ SectorWaits s ∧ mediaCut s = { s with media := s.media.lost, miq := [], moq := [], verdict := none }) := by
  unfold mediaCut discardWaitingSector SectorWaits
  dsimp only
  cases hq : s.fiq with
  | nil => exact .inr ⟨nofun, rfl⟩
  | cons q qs =>
    dsimp only
    by_cases hc : frontCandidate q s = true
    · rw [if_pos (by exact hc), popIntake_eq]
      exact .inl ⟨⟨q, rfl, hc⟩, rfl⟩
    · rw [if_neg (by exact hc)]
      exact .inr ⟨by rintro ⟨x, ⟨⟩, hx⟩; exact hc hx, rfl⟩

theorem markTest_keeps (high low depth : Nat) (x : Port) :
    (markTest high low depth x).link = x.link ∧ (markTest high low depth x).sending = x.sending ∧
      (markTest high low depth x).peerHold = x.peerHold ∧ (markTest high low depth x).line = x.line := by
  unfold markTest
  split_ifs <;> exact ⟨rfl, rfl, rfl, rfl⟩

/-- The front port and its queue after the waiting sector is gone: the marks are tested at its departure (R93). -/
theorem mediaCut_front (s : State) :
    let waits := ∃ q ∈ s.fiq.head?, frontCandidate q s = true
    (waits → (mediaCut s).fiq = s.fiq.tail ∧
      (mediaCut s).front = markTest s.limits.fiqHigh s.limits.fiqLow s.fiq.tail.length s.front) ∧
    (¬ waits → (mediaCut s).fiq = s.fiq ∧ (mediaCut s).front = s.front) := by
  rcases mediaCut_cases s with ⟨hw, he⟩ | ⟨hw, he⟩ <;> rw [he]
  · exact ⟨fun _ => ⟨rfl, rfl⟩, fun hn => absurd hw hn⟩
  · exact ⟨fun hy => absurd hy hw, fun _ => ⟨rfl, rfl⟩⟩

theorem mediaCut_unjudged (s : State) : Unjudged s.media.lost [] (mediaCut s) := by
  rcases mediaCut_cases s with ⟨-, he⟩ | ⟨-, he⟩ <;> rw [he] <;> exact ⟨rfl, rfl, rfl⟩

theorem mediaCut_calm (s : State) :
    Calm { s with media := s.media.lost, miq := [], moq := [], verdict := none } (mediaCut s) := discardWaitingSector_calm _

/-- The state in which a media link loss ends the transfers: the front queue stands by. -/
def mediaBase (s : State) : State := { mediaCut s with fiq := [] }

theorem mediaBase_core (s : State) : SameCore s (mediaBase s) := { mediaCut_core s with }

theorem mediaEnds_moves {s : State} (h : s.fiq = []) : Moves True s (mediaEnds s) := by
  have hends : Moves True s (mediaEnded s) :=
    Moves.foldl (P := fun x => x.fiq = []) (fun x y hm hx => hm.fiq.trans hx)
      (fun x i hx => moves_endTransfer trivial i _ _ hx) allTags s h
  exact hends.trans (Moves.foldl (P := fun _ => True) (fun _ _ _ => id) (fun x l _ => moves_discardHeldWrite trivial l x)
    allLanes _ trivial)

theorem mediaBase_unjudged (s : State) : Unjudged s.media.lost [] (mediaBase s) := mediaCut_unjudged s

theorem mediaEnds_unjudged (s : State) :
    (mediaEnds (mediaBase s)).verdict = none ∧ (mediaEnds (mediaBase s)).miq = [] ∧
      (mediaEnds (mediaBase s)).media = s.media.lost :=
  (mediaEnds_moves (s := mediaBase s) rfl).unjudged (mediaBase_unjudged s)

theorem mediaEnds_front (s : State) : (mediaEnds (mediaBase s)).front = (mediaCut s).front :=
  (mediaEnds_moves (s := mediaBase s) rfl).front

theorem mediaEnds_unit (s : State) : UnitStays s (mediaEnds s) :=
  (UnitStays.foldl (fun s t => endTransfer_unit t _ _ s) _ _).trans (UnitStays.foldl (fun s l => discardHeldWrite_unit l s) _ _)

section
variable {p : PortId} {s t : State}

theorem lostJob_core (h : SameCore s t) (p : PortId) : lostJob p t = lostJob p s := by
  funext l
  unfold lostJob
  rw [h.lanes, h.contexts]

theorem lostJobs_core (h : SameCore s t) (p : PortId) (test : Job → Bool) : lostJobs p test t = lostJobs p test s := by
  unfold lostJobs
  rw [lostJob_core h]

theorem jobsLeft_core (h : SameCore s t) (p : PortId) (i : Tag) : t.jobsLeft p i = s.jobsLeft p i := by
  rw [State.jobsLeft, lostJobs_core h, h.contexts]
  rfl

theorem pinsLeft_core (h : SameCore s t) (p : PortId) (k : SlotIx) : t.pinsLeft p k = s.pinsLeft p k := by
  rw [State.pinsLeft, lostJobs_core h, h.slots]
  rfl

end

theorem mediaEnds_pins {s : State} (h : s.fiq = []) (k : SlotIx) : (mediaEnds s).slots[k].pins = s.pinsLeft .media k := by
  rw [State.pinsLeft, ← taken_eq (mediaEnds_lanes s)]
  exact (mediaEnds_moves h).emptied.pins k

/-- No lane holds an output any more (R111). -/
theorem mediaEnds_holds {s : State} (h : HoldListsAgree s) : (mediaEnds s).moqHold = [] ∧ (mediaEnds s).fsqHold = [] := by
  have hbooks := (holdListsAgree_iff s).mp h
  have hlisted := hbooks.mediaEnds.listed trivial
  have hnone (l : LaneIx) : heldFor (mediaEnds s).lanes[l] = none := by
    rw [mediaEnds_lanes]
    by_cases hl : (lostJob .media s l).isSome = true
    · rw [if_pos hl]
      rfl
    · rw [if_neg hl]
      rw [lostJob_media, not_or] at hl
      obtain ⟨hread, hwrite⟩ := hl
      rcases hlane : s.lanes[l] with _ | _ | ⟨j, f, _ | _⟩
      · rfl
      · rfl
      · rw [hlane] at hwrite
        exact absurd rfl hwrite
      · have hheld : heldRead s.lanes[l] = some j.tag := by rw [hlane]; rfl
        exact absurd ⟨j.tag, hbooks.held trivial l j.tag hheld, hheld⟩ hread
  constructor <;> refine List.eq_nil_iff_forall_not_mem.mpr fun l hl => ?_
  · exact absurd ((hnone l).symm.trans ((hlisted.moq l).mp hl)) nofun
  · exact absurd ((hnone l).symm.trans ((hlisted.fsq l).mp hl)) nofun

theorem exec_mediaLinkDown {s : State} (hreset : s.inReset = false) (hup : s.media.link = .up) :
    exec .mediaLinkDown s = .next (frontTransmit { mediaEnds (mediaBase s) with fiq := (mediaCut s).fiq }) := by
  have hloss : mediaLoss s = { mediaEnds (mediaBase s) with fiq := (mediaCut s).fiq } := mediaLoss_eq s
  obtain ⟨-, -, hmedia⟩ := mediaEnds_unjudged s
  change execMediaLinkDown s = _
  unfold execMediaLinkDown
  rw [if_neg (by rw [hreset, hup]; simp), hloss]
  generalize mediaEnds (mediaBase s) = e at hmedia ⊢
  refine congrArg _ (mediaTransmit_down ?_)
  rw [frontTransmit_frame]
  exact congrArg Port.link hmedia

/-- The front transmitter changes what it sends and what the partner was told, and nothing where it may not begin (R96). -/
theorem frontTransmit_port (s : State) :
    (frontTransmit s).front.link = s.front.link ∧ (frontTransmit s).front.held = s.front.held ∧
      (frontTransmit s).front.peerHold = s.front.peerHold ∧ (frontTransmit s).front.pendingFlow = s.front.pendingFlow ∧
      (frontTransmit s).front.line = s.front.line ∧
      (s.front.link = .down ∨ s.front.sending ≠ none → (frontTransmit s).front = s.front) := by
  unfold frontTransmit
  by_cases h : s.front.link = .up ∧ s.front.sending = none
  · rw [if_pos h]
    have hno (hn : s.front.link = .down ∨ s.front.sending ≠ none) : False := by
      rcases hn with hn | hn
      · rw [h.1] at hn
        cases hn
      · exact hn h.2
    cases hc : frontChoice s with
    | none => exact ⟨rfl, rfl, rfl, rfl, rfl, fun _ => rfl⟩
    | some x => cases x <;> exact ⟨rfl, rfl, rfl, rfl, rfl, fun hn => (hno hn).elim⟩
  · rw [if_neg h]
    exact ⟨rfl, rfl, rfl, rfl, rfl, fun _ => rfl⟩

/-- What the event leaves of the front port and its queue (R98, R154). -/
theorem frontTransmit_after {s y : State} (hy : y.front = (mediaCut s).front) (hq : y.fiq = (mediaCut s).fiq) :
    let t := frontTransmit y
    let waits := ∃ q ∈ s.fiq.head?, frontCandidate q s = true
    let f := if waits then markTest s.limits.fiqHigh s.limits.fiqLow s.fiq.tail.length s.front else s.front
    t.fiq = (if waits then s.fiq.tail else s.fiq) ∧ t.front.link = s.front.link ∧ t.front.held = f.held ∧
      t.front.peerHold = s.front.peerHold ∧ t.front.pendingFlow = f.pendingFlow ∧ t.front.line = s.front.line ∧
      (s.front.link = .down ∨ s.front.sending ≠ none → t.front = f) := by
  intro t waits f
  have hport : (mediaCut s).front = f ∧ (mediaCut s).fiq = if waits then s.fiq.tail else s.fiq := by
    by_cases hw : waits
    · obtain ⟨hq, hf⟩ := (mediaCut_front s).1 hw
      exact ⟨hf.trans (if_pos hw).symm, hq.trans (if_pos hw).symm⟩
    · obtain ⟨hq, hf⟩ := (mediaCut_front s).2 hw
      exact ⟨hf.trans (if_neg hw).symm, hq.trans (if_neg hw).symm⟩
  have hf : f.link = s.front.link ∧ f.sending = s.front.sending ∧ f.peerHold = s.front.peerHold ∧ f.line = s.front.line := by
    by_cases hw : waits
    · rw [show f = _ from if_pos hw]
      exact markTest_keeps ..
    · rw [show f = _ from if_neg hw]
      exact ⟨rfl, rfl, rfl, rfl⟩
  obtain ⟨hflink, hfsending, hfpeer, hfline⟩ := hf
  obtain ⟨hlink, hheld, hpeer, hpend, hline, hstay⟩ := frontTransmit_port y
  rw [hy.trans hport.1] at hlink hheld hpeer hpend hline hstay
  rw [hflink, hfsending] at hstay
  refine ⟨?_, hlink.trans hflink, hheld, hpeer.trans hfpeer, hpend, hline.trans hfline, hstay⟩
  have hfiq := congrArg State.fiq (frontTransmit_frame y)
  exact (hfiq.trans hq).trans hport.2

end Sys2Proof.Machine

namespace Sys2Proof.Machine

/-- Settles O29: the moves of the event keep what it says of the queues, the slots and the Directive Unit, and every context
and lane is as its turns leave it. -/
theorem mediaLinkLoss : Obligations.MediaLinkLoss := by
  intro s hreset hup
  have hcore := mediaBase_core s
  have hmoves := mediaEnds_moves (s := mediaBase s) rfl
  have hcalm := mediaEnds_calm (mediaBase s)
  have hcut := mediaCut_calm s
  obtain ⟨hverdict, hmiq, hmedia⟩ := mediaEnds_unjudged s
  have hexec := exec_mediaLinkDown hreset hup
  have hcontext (i : Tag) : (mediaBase s).contexts[i] = s.contexts[i] := by rw [hcore.contexts]
  have hleft := jobsLeft_core hcore .media
  have hrunning (i : Tag) := mediaEnds_running (s := mediaBase s) (i := i)
  have hclosed (i : Tag) := mediaEnds_closed (s := mediaBase s) (i := i)
  have hstatus (i : Tag) := mediaEnds_status (s := mediaBase s) (i := i)
  have hending (i : Tag) := mediaEnds_ending (s := mediaBase s) (i := i)
  simp only [hcontext, hleft] at hrunning hclosed hstatus hending
  have hlanes := mediaEnds_lanes (mediaBase s)
  rw [lostJob_core hcore, hcore.lanes] at hlanes
  have hpins (k : SlotIx) := (mediaEnds_pins (s := mediaBase s) rfl k).trans (pinsLeft_core hcore .media k)
  have hholds (h : HoldListsAgree s) := mediaEnds_holds (s := mediaBase s)
    ((holdListsAgree_iff _).mpr (((holdListsAgree_iff s).mp h).core hcore))
  have hunit := mediaEnds_unit (mediaBase s)
  have hefront := mediaEnds_front s
  have hdrain : drainedSlot (mediaBase s) = drainedSlot s := drainedSlot_congr hcore.du
  generalize mediaEnds (mediaBase s) = e at *
  have hfront := frontTransmit_after (s := s) (y := { e with fiq := (mediaCut s).fiq }) hefront rfl
  have hframe := frontTransmit_frame { e with fiq := (mediaCut s).fiq }
  generalize frontTransmit { e with fiq := (mediaCut s).fiq } = t at *
  have hcontexts : t.contexts = e.contexts := by rw [hframe]
  have hslots : t.slots = e.slots := by rw [hframe]
  have hdu : t.du = e.du := by rw [hframe]
  have hdrq : t.drq = e.drq := by rw [hframe]
  have hlaneTable : t.lanes = e.lanes := by rw [hframe]
  refine ⟨t, hexec, ?_, ⟨?_, ?_, ?_, ?_, ?_⟩, hfront, fun i h => ?_, fun i h hj => ?_, fun i h => ?_, fun i h hj => ?_, fun l => ?_,
    fun h => ?_, fun k hk => ?_, fun hd => ?_, fun done e' rest hn hagree k goal timer silent hdu' => ?_, ?_, ?_, ?_, ?_, ?_,
    ?_, ?_, ?_, ?_, ?_⟩
  · rw [hframe]
    exact hmedia
  · rw [hframe]
    exact hmiq
  · rw [hframe]
    exact hcalm.moq.trans hcut.moq
  · rw [hframe]
    exact hverdict
  · rw [hframe]
    exact hcalm.fsq.trans hcut.fsq
  · rw [hframe]
    exact hcalm.events.trans hcut.events
  · rw [hcontexts]
    exact hrunning i h
  · rw [hcontexts]
    exact hclosed i h hj
  · rw [hcontexts]
    exact hstatus i h
  · rw [hcontexts]
    exact hending i h hj
  · rw [hlaneTable]
    exact hlanes l
  · rw [hframe]
    exact hholds h
  · have hstays : SlotStays k s.slots[k] (mediaBase s) := ⟨hdrain ▸ hk, by rw [hcore.slots]⟩
    rw [hslots]
    exact (hmoves.slotStays hstays).record (hpins k)
  · obtain ⟨hunitDu, hunitDrq⟩ := hunit.keep (hdrain.trans hd)
    exact ⟨(hdu.trans hunitDu).trans hcore.du, (hdrq.trans hunitDrq).trans hcore.drq⟩
  · have hends : QueueEnds silent s.drq (if silent then done ++ rest else done ++ { e' with executed := true } :: rest) :=
      ⟨done, e', rest, hn.1, hn.2.1, hn.2.2, rfl⟩
    have hwhole : DrainAt k goal timer silent s.drq
        (if silent then done ++ rest else done ++ { e' with executed := true } :: rest) s.slots[k] (mediaBase s) :=
      drainAt_whole hagree (drainedSlot_some hdu').1 (by rw [hcore.slots]) hcore.contexts (hcore.du.trans hdu') hcore.drq
    have hat := hmoves.drainAt hends hwhole
    rw [hframe]
    exact hat.goesOn (hpins k) (hcalm.random.trans hcut.random)
  · rw [hframe]
    exact hcalm.time.trans hcut.time
  · rw [hframe]
    exact hcalm.limits.trans hcut.limits
  · rw [hframe]
    exact hcalm.ranges.trans hcut.ranges
  · rw [hframe]
    exact hcalm.wrapping.trans hcut.wrapping
  · rw [hframe]
    exact hcalm.random.trans hcut.random
  · rw [hframe]
    exact hcalm.laneTurn.trans hcut.laneTurn
  · rw [hframe]
    exact hcalm.autoLock.trans hcut.autoLock
  · rw [hframe]
    exact (hcalm.inReset.trans hcut.inReset).trans hreset
  · rw [hframe]
    exact hcalm.pending.trans hcut.pending
  · rw [hframe]
    exact hcore.rpq ▸ hmoves.rpq_grows

end Sys2Proof.Machine
end
